-- ==== Sys2Proof/Word.lean ====
section
/-! DEFINITION. The bit-vector types of the machine (00_scope.md rules R9 to R11): a value the spec adds, masks or
stores in a register of a fixed width. Addresses while they are compared with the size of memory are natural numbers
(20_memory.md rule R52). -/

namespace Sys2Proof

/-- A register field or a 4-bit immediate of an instruction word (30_encoding.md rule R71). -/
abbrev Nibble := BitVec 4

/-- A general register, a timer, a memory cell, an 8-bit immediate (00_scope.md rule R6). -/
abbrev Byte := BitVec 8

/-- The 12-bit address field of an instruction word (30_encoding.md rule R71). -/
abbrev Addr12 := BitVec 12

/-- An instruction word, the pc, the index register, a return address (00_scope.md rule R6). -/
abbrev Word := BitVec 16

end Sys2Proof
end

