-- ==== Sys2Proof/Config.lean ====
section
/-! DEFINITION. What this hardware fixes (00_scope.md rule R6), what it leaves open (rule R7) and the draws (rule R8).
An OPEN parameter and a draw are constants without a body: nothing in Lean can tell their value, so a theorem about the
model holds for every value they can take. -/

namespace Sys2Proof

/-- `MEM_SIZE`: addresses 0x000..0xFFF (00_scope.md rule R6). -/
@[simp] abbrev Config.memSize : Nat := 4096

/-- One past `RESERVED_HI`: the region 0x000..0x1FF holds the font (00_scope.md rule R6, 20_memory.md rule R53). -/
@[simp] abbrev Config.reservedEnd : Nat := 0x200

/-- `LOAD_BASE`: the load address and the reset pc (00_scope.md rule R6). -/
@[simp] abbrev Config.loadBase : Nat := 0x200

/-- `STACK_DEPTH`: return addresses the stack holds (00_scope.md rule R6). -/
@[simp] abbrev Config.stackDepth : Nat := 16

/-- `DISP_W`: pixel columns (00_scope.md rule R6). -/
@[simp] abbrev Config.dispW : Nat := 64

/-- `DISP_H`: pixel rows (00_scope.md rule R6). -/
@[simp] abbrev Config.dispH : Nat := 32

/-- `NUM_KEYS` (00_scope.md rule R6). -/
@[simp] abbrev Config.numKeys : Nat := 16

/-- `GLYPH_BYTES`: bytes of one font glyph (00_scope.md rule R6). -/
@[simp] abbrev Config.glyphBytes : Nat := 5

/-- Bytes of the whole font, 16 glyphs (00_scope.md rule R7). -/
@[simp] abbrev Config.fontBytes : Nat := 80

/-- The domain of the parameter `SHIFT_SOURCE` (00_scope.md rule R7). -/
inductive ShiftSource where
  /-- The shifted operand is V[x]. -/
  | vx
  /-- The shifted operand is V[y]. -/
  | vy
deriving DecidableEq, Repr, Inhabited

/-- The domain of the parameter `SPRITE_EDGE` (00_scope.md rule R7). -/
inductive SpriteEdge where
  /-- A pixel past an edge is drawn at the opposite edge. -/
  | wrap
  /-- A pixel past an edge is not drawn. -/
  | clip
deriving DecidableEq, Repr, Inhabited

/-- The OPEN parameter `BREAK_WORD` (30_encoding.md rule R75, 92_eei_decisions.md D3) before its constraint is applied:
`breakWord` in Decode.lean is this word wherever it lies in the illegal space. Log entry 6. -/
opaque Config.breakCandidate : Word

/-- The OPEN parameter `FONT_BASE` (00_scope.md rule R7, 92_eei_decisions.md D13): every value from 0 to 432, which is
`FONT_BASE + 80 <= 0x200`. Log entry 7. -/
opaque Config.fontBaseValue : Fin 433

/-- The OPEN parameter `SHIFT_SOURCE` (92_eei_decisions.md D8). Log entry 9. -/
opaque Config.shiftSource : ShiftSource

/-- The OPEN parameter `SPRITE_EDGE` (92_eei_decisions.md D10). Log entry 9. -/
opaque Config.spriteEdge : SpriteEdge

/-- `draw_byte()`, the n-th draw of a run (00_scope.md rules R8, R14, 92_eei_decisions.md D26): a free value.
Log entry 4. -/
opaque Config.drawByte : Nat → Byte

/-- The free choice behind `draw_key(S)`, the n-th draw of a run (00_scope.md rule R14, 92_eei_decisions.md D15): reduced
to an index into the pressed keys where it is used. Log entry 4. -/
opaque Config.drawKey : Nat → Nat

end Sys2Proof
end

