-- ==== Sys2Proof/Syntax.lean ====
section
/-! DEFINITION. The instructions: one constructor per row of the opcode map (30_encoding.md rule R76, in its order),
with the row's operand fields (rule R71). `x` and `y` are register fields, `kk`, `n` and `nnn` immediates. -/

namespace Sys2Proof

inductive Instr where
  /-- Row 1, `BRK`, the word BREAK_WORD. -/
  | brk
  /-- Row 2, `CLS`, 00E0. -/
  | cls
  /-- Row 3, `RET`, 00EE. -/
  | ret
  /-- Row 4, `JP nnn`, 1nnn. -/
  | jp (nnn : Addr12)
  /-- Row 5, `CALL nnn`, 2nnn. -/
  | call (nnn : Addr12)
  /-- Row 6, `SE Vx, kk`, 3xkk. -/
  | seImm (x : Nibble) (kk : Byte)
  /-- Row 7, `SNE Vx, kk`, 4xkk. -/
  | sneImm (x : Nibble) (kk : Byte)
  /-- Row 8, `SE Vx, Vy`, 5xy0. -/
  | seReg (x y : Nibble)
  /-- Row 9, `LD Vx, kk`, 6xkk. -/
  | ldImm (x : Nibble) (kk : Byte)
  /-- Row 10, `ADD Vx, kk`, 7xkk. -/
  | addImm (x : Nibble) (kk : Byte)
  /-- Row 11, `LD Vx, Vy`, 8xy0. -/
  | ldReg (x y : Nibble)
  /-- Row 12, `OR Vx, Vy`, 8xy1. -/
  | orReg (x y : Nibble)
  /-- Row 13, `AND Vx, Vy`, 8xy2. -/
  | andReg (x y : Nibble)
  /-- Row 14, `XOR Vx, Vy`, 8xy3. -/
  | xorReg (x y : Nibble)
  /-- Row 15, `ADD Vx, Vy`, 8xy4. -/
  | addReg (x y : Nibble)
  /-- Row 16, `SUB Vx, Vy`, 8xy5. -/
  | subReg (x y : Nibble)
  /-- Row 17, `SHR Vx, Vy`, 8xy6. -/
  | shr (x y : Nibble)
  /-- Row 18, `SUBN Vx, Vy`, 8xy7. -/
  | subnReg (x y : Nibble)
  /-- Row 19, `SHL Vx, Vy`, 8xyE. -/
  | shl (x y : Nibble)
  /-- Row 20, `SNE Vx, Vy`, 9xy0. -/
  | sneReg (x y : Nibble)
  /-- Row 21, `LD I, nnn`, Annn. -/
  | ldI (nnn : Addr12)
  /-- Row 22, `JP V0, nnn`, Bnnn. -/
  | jpV0 (nnn : Addr12)
  /-- Row 23, `RND Vx, kk`, Cxkk. -/
  | rnd (x : Nibble) (kk : Byte)
  /-- Row 24, `DRW Vx, Vy, n`, Dxyn with n != 0. -/
  | drw (x y n : Nibble)
  /-- Row 25, `SKP Vx`, Ex9E. -/
  | skp (x : Nibble)
  /-- Row 26, `SKNP Vx`, ExA1. -/
  | sknp (x : Nibble)
  /-- Row 27, `LD Vx, DT`, Fx07. -/
  | ldVxDT (x : Nibble)
  /-- Row 28, `LD Vx, K`, Fx0A. -/
  | ldVxK (x : Nibble)
  /-- Row 29, `LD DT, Vx`, Fx15. -/
  | ldDTVx (x : Nibble)
  /-- Row 30, `LD ST, Vx`, Fx18. -/
  | ldSTVx (x : Nibble)
  /-- Row 31, `ADD I, Vx`, Fx1E. -/
  | addI (x : Nibble)
  /-- Row 32, `LD F, Vx`, Fx29. -/
  | ldF (x : Nibble)
  /-- Row 33, `LD B, Vx`, Fx33. -/
  | ldB (x : Nibble)
  /-- Row 34, `LD [I], Vx`, Fx55. -/
  | ldMemVx (x : Nibble)
  /-- Row 35, `LD Vx, [I]`, Fx65. -/
  | ldVxMem (x : Nibble)
deriving DecidableEq, Repr

end Sys2Proof
end

