-- ==== Sys2Proof/Decode.lean ====
section
/-! DEFINITION. The decoder, total on any bytes, and after it the encoder, both from the format table and the opcode map
of 30_encoding.md (rules R71, R72, R74 to R78, R80). The map's own mask and match columns stand at the end, as data. -/

namespace Sys2Proof

/-- Why bytes are no instruction. -/
inductive Reject where
  /-- The word lies in the illegal space and is not BREAK_WORD (30_encoding.md rule R78). -/
  | illegal (w : Word)
  /-- Fewer than the two bytes every instruction has (30_encoding.md rule R70). -/
  | short
deriving DecidableEq, Repr

/-! ### Bytes and words -/

/-- `concat(a, b) = a * 256 + b` of 00_scope.md rule R11. -/
def concat (a b : Byte) : Word := (a.setWidth 16 <<< 8) ||| b.setWidth 16

/-- The byte at the lower address of a word stored big-endian (20_memory.md rule R54). -/
def hiByte (w : Word) : Byte := w.extractLsb' 8 8

/-- The byte at the higher address of a word stored big-endian (20_memory.md rule R54). -/
def loByte (w : Word) : Byte := w.extractLsb' 0 8

/-! ### Fields (30_encoding.md rule R71) -/

/-- The opcode nibble `w[15:12]`. -/
def fieldFamily (w : Word) : Nibble := w.extractLsb' 12 4

/-- The register field `x = w[11:8]`. -/
def fieldX (w : Word) : Nibble := w.extractLsb' 8 4

/-- The register field `y = w[7:4]`. -/
def fieldY (w : Word) : Nibble := w.extractLsb' 4 4

/-- The 4-bit immediate `n = w[3:0]`. -/
def fieldN (w : Word) : Nibble := w.extractLsb' 0 4

/-- The 8-bit immediate `kk = w[7:0]`. -/
def fieldKK (w : Word) : Byte := w.extractLsb' 0 8

/-- The 12-bit address `nnn = w[11:0]`. -/
def fieldNNN (w : Word) : Addr12 := w.extractLsb' 0 12

/-! ### Decoding -/

/-- Family 0x8, by the trailing nibble (30_encoding.md rule R77). -/
def decodeArith (w : Word) : Option Instr :=
  if fieldN w = 0x0#4 then some (.ldReg (fieldX w) (fieldY w))
  else if fieldN w = 0x1#4 then some (.orReg (fieldX w) (fieldY w))
  else if fieldN w = 0x2#4 then some (.andReg (fieldX w) (fieldY w))
  else if fieldN w = 0x3#4 then some (.xorReg (fieldX w) (fieldY w))
  else if fieldN w = 0x4#4 then some (.addReg (fieldX w) (fieldY w))
  else if fieldN w = 0x5#4 then some (.subReg (fieldX w) (fieldY w))
  else if fieldN w = 0x6#4 then some (.shr (fieldX w) (fieldY w))
  else if fieldN w = 0x7#4 then some (.subnReg (fieldX w) (fieldY w))
  else if fieldN w = 0xE#4 then some (.shl (fieldX w) (fieldY w))
  else none

/-- Family 0xE, by the trailing byte (30_encoding.md rule R77). -/
def decodeKeySkip (w : Word) : Option Instr :=
  if fieldKK w = 0x9E#8 then some (.skp (fieldX w))
  else if fieldKK w = 0xA1#8 then some (.sknp (fieldX w))
  else none

/-- Family 0xF, by the trailing byte (30_encoding.md rule R77). -/
def decodeMisc (w : Word) : Option Instr :=
  if fieldKK w = 0x07#8 then some (.ldVxDT (fieldX w))
  else if fieldKK w = 0x0A#8 then some (.ldVxK (fieldX w))
  else if fieldKK w = 0x15#8 then some (.ldDTVx (fieldX w))
  else if fieldKK w = 0x18#8 then some (.ldSTVx (fieldX w))
  else if fieldKK w = 0x1E#8 then some (.addI (fieldX w))
  else if fieldKK w = 0x29#8 then some (.ldF (fieldX w))
  else if fieldKK w = 0x33#8 then some (.ldB (fieldX w))
  else if fieldKK w = 0x55#8 then some (.ldMemVx (fieldX w))
  else if fieldKK w = 0x65#8 then some (.ldVxMem (fieldX w))
  else none

/-- Rows 2 to 35 of the opcode map, dispatched by the top nibble (30_encoding.md rules R74, R76, R77); `none` is the
illegal space of rule R78, BREAK_WORD included. -/
def decodeRow (w : Word) : Option Instr :=
  if fieldFamily w = 0x0#4 then
    (if w = 0x00E0#16 then some .cls else if w = 0x00EE#16 then some .ret else none)
  else if fieldFamily w = 0x1#4 then some (.jp (fieldNNN w))
  else if fieldFamily w = 0x2#4 then some (.call (fieldNNN w))
  else if fieldFamily w = 0x3#4 then some (.seImm (fieldX w) (fieldKK w))
  else if fieldFamily w = 0x4#4 then some (.sneImm (fieldX w) (fieldKK w))
  else if fieldFamily w = 0x5#4 then
    (if fieldN w = 0x0#4 then some (.seReg (fieldX w) (fieldY w)) else none)
  else if fieldFamily w = 0x6#4 then some (.ldImm (fieldX w) (fieldKK w))
  else if fieldFamily w = 0x7#4 then some (.addImm (fieldX w) (fieldKK w))
  else if fieldFamily w = 0x8#4 then decodeArith w
  else if fieldFamily w = 0x9#4 then
    (if fieldN w = 0x0#4 then some (.sneReg (fieldX w) (fieldY w)) else none)
  else if fieldFamily w = 0xA#4 then some (.ldI (fieldNNN w))
  else if fieldFamily w = 0xB#4 then some (.jpV0 (fieldNNN w))
  else if fieldFamily w = 0xC#4 then some (.rnd (fieldX w) (fieldKK w))
  else if fieldFamily w = 0xD#4 then
    (if fieldN w = 0x0#4 then none else some (.drw (fieldX w) (fieldY w) (fieldN w)))
  else if fieldFamily w = 0xE#4 then decodeKeySkip w
  else decodeMisc w

/-- BREAK_WORD: an arbitrary word of the illegal space of rows 2 to 35 (30_encoding.md rule R75). The candidate is
arbitrary; where it breaks the rule's constraint the illegal word 0x0000 stands in for it. Log entry 6. -/
def breakWord : Word :=
  if (decodeRow Config.breakCandidate).isSome then 0x0000#16 else Config.breakCandidate

/-- Decoding of one word (30_encoding.md rule R74). The rule compares with BREAK_WORD first; since BREAK_WORD matches no
other row (rule R75), comparing last gives the same instruction for every word (`decodeWord_break_first` in
Laws/Decode.lean). DEDUCED, log entry 6. -/
def decodeWord (w : Word) : Except Reject Instr :=
  match decodeRow w with
  | some i => .ok i
  | none => if w = breakWord then .ok .brk else .error (.illegal w)

/-- Decoding of bytes in memory order: the first byte is `w[15:8]` (20_memory.md rule R54); the rest is handed back. -/
def decode : List Byte → Except Reject (Instr × List Byte)
  | hi :: lo :: rest =>
    match decodeWord (concat hi lo) with
    | .ok i => .ok (i, rest)
    | .error r => .error r
  | _ => .error .short

/-! ### Encoding -/

/-- The formats XY0, XYS and XYN of 30_encoding.md rule R72: four nibbles. -/
def formatXYN (family x y n : Nibble) : Word :=
  (family.setWidth 16 <<< 12) ||| (x.setWidth 16 <<< 8) ||| (y.setWidth 16 <<< 4) ||| n.setWidth 16

/-- The formats XKK and XSS of 30_encoding.md rule R72: family, register, low byte. -/
def formatXKK (family x : Nibble) (kk : Byte) : Word :=
  (family.setWidth 16 <<< 12) ||| (x.setWidth 16 <<< 8) ||| kk.setWidth 16

/-- The format NNN of 30_encoding.md rule R72: family and address. -/
def formatNNN (family : Nibble) (nnn : Addr12) : Word := (family.setWidth 16 <<< 12) ||| nnn.setWidth 16

/-- The word of an instruction (30_encoding.md rules R72 and R76). -/
def encode : Instr → Word
  | .brk => breakWord
  | .cls => 0x00E0#16
  | .ret => 0x00EE#16
  | .jp nnn => formatNNN 0x1#4 nnn
  | .call nnn => formatNNN 0x2#4 nnn
  | .seImm x kk => formatXKK 0x3#4 x kk
  | .sneImm x kk => formatXKK 0x4#4 x kk
  | .seReg x y => formatXYN 0x5#4 x y 0x0#4
  | .ldImm x kk => formatXKK 0x6#4 x kk
  | .addImm x kk => formatXKK 0x7#4 x kk
  | .ldReg x y => formatXYN 0x8#4 x y 0x0#4
  | .orReg x y => formatXYN 0x8#4 x y 0x1#4
  | .andReg x y => formatXYN 0x8#4 x y 0x2#4
  | .xorReg x y => formatXYN 0x8#4 x y 0x3#4
  | .addReg x y => formatXYN 0x8#4 x y 0x4#4
  | .subReg x y => formatXYN 0x8#4 x y 0x5#4
  | .shr x y => formatXYN 0x8#4 x y 0x6#4
  | .subnReg x y => formatXYN 0x8#4 x y 0x7#4
  | .shl x y => formatXYN 0x8#4 x y 0xE#4
  | .sneReg x y => formatXYN 0x9#4 x y 0x0#4
  | .ldI nnn => formatNNN 0xA#4 nnn
  | .jpV0 nnn => formatNNN 0xB#4 nnn
  | .rnd x kk => formatXKK 0xC#4 x kk
  | .drw x y n => formatXYN 0xD#4 x y n
  | .skp x => formatXKK 0xE#4 x 0x9E#8
  | .sknp x => formatXKK 0xE#4 x 0xA1#8
  | .ldVxDT x => formatXKK 0xF#4 x 0x07#8
  | .ldVxK x => formatXKK 0xF#4 x 0x0A#8
  | .ldDTVx x => formatXKK 0xF#4 x 0x15#8
  | .ldSTVx x => formatXKK 0xF#4 x 0x18#8
  | .addI x => formatXKK 0xF#4 x 0x1E#8
  | .ldF x => formatXKK 0xF#4 x 0x29#8
  | .ldB x => formatXKK 0xF#4 x 0x33#8
  | .ldMemVx x => formatXKK 0xF#4 x 0x55#8
  | .ldVxMem x => formatXKK 0xF#4 x 0x65#8

/-- The two bytes of an instruction in memory order (20_memory.md rule R54). -/
def encodeBytes (i : Instr) : List Byte := [hiByte (encode i), loByte (encode i)]

/-! ### The host's word numbering -/

/-- The bytes, in memory order, of an instruction whose bits are `w` as spec/opcode_table.json numbers them. Every
instruction is one 16-bit word (30_encoding.md rule R70), so the first word is all of it; bits above `nbits` are 0. -/
def tableBytes (nbits w : Nat) : List Byte :=
  let first : Word := BitVec.ofNat 16 (w % 2 ^ nbits)
  [hiByte first, loByte first]

/-- The instruction the decoder reads from an instruction whose bits are `w`. -/
def decodeTableWord (nbits w : Nat) : Option Instr :=
  match decode (tableBytes nbits w) with
  | .ok (i, _) => some i
  | .error _ => none

/-! ### The mask and match columns of the opcode map -/

/-- The mask column of an instruction's row (30_encoding.md rule R76). -/
def rowMask : Instr → Word
  | .brk | .cls | .ret => 0xFFFF#16
  | .jp _ | .call _ | .seImm _ _ | .sneImm _ _ | .ldImm _ _ | .addImm _ _ | .ldI _ | .jpV0 _ | .rnd _ _
  | .drw _ _ _ => 0xF000#16
  | .seReg _ _ | .ldReg _ _ | .orReg _ _ | .andReg _ _ | .xorReg _ _ | .addReg _ _ | .subReg _ _ | .shr _ _
  | .subnReg _ _ | .shl _ _ | .sneReg _ _ => 0xF00F#16
  | .skp _ | .sknp _ | .ldVxDT _ | .ldVxK _ | .ldDTVx _ | .ldSTVx _ | .addI _ | .ldF _ | .ldB _ | .ldMemVx _
  | .ldVxMem _ => 0xF0FF#16

/-- The match column of an instruction's row (30_encoding.md rule R76). -/
def rowMatch : Instr → Word
  | .brk => breakWord
  | .cls => 0x00E0#16
  | .ret => 0x00EE#16
  | .jp _ => 0x1000#16
  | .call _ => 0x2000#16
  | .seImm _ _ => 0x3000#16
  | .sneImm _ _ => 0x4000#16
  | .seReg _ _ => 0x5000#16
  | .ldImm _ _ => 0x6000#16
  | .addImm _ _ => 0x7000#16
  | .ldReg _ _ => 0x8000#16
  | .orReg _ _ => 0x8001#16
  | .andReg _ _ => 0x8002#16
  | .xorReg _ _ => 0x8003#16
  | .addReg _ _ => 0x8004#16
  | .subReg _ _ => 0x8005#16
  | .shr _ _ => 0x8006#16
  | .subnReg _ _ => 0x8007#16
  | .shl _ _ => 0x800E#16
  | .sneReg _ _ => 0x9000#16
  | .ldI _ => 0xA000#16
  | .jpV0 _ => 0xB000#16
  | .rnd _ _ => 0xC000#16
  | .drw _ _ _ => 0xD000#16
  | .skp _ => 0xE09E#16
  | .sknp _ => 0xE0A1#16
  | .ldVxDT _ => 0xF007#16
  | .ldVxK _ => 0xF00A#16
  | .ldDTVx _ => 0xF015#16
  | .ldSTVx _ => 0xF018#16
  | .addI _ => 0xF01E#16
  | .ldF _ => 0xF029#16
  | .ldB _ => 0xF033#16
  | .ldMemVx _ => 0xF055#16
  | .ldVxMem _ => 0xF065#16

end Sys2Proof
end

