-- ==== Sys2Proof/Machine/State.lean ====
section
/-! DEFINITION. The machine's state as plain data: the tuple of 10_state.md rule R20, element by element under the spec's
names, and two fields of the model's own (`result`, `draws`). `State.reset` is the machine right after reset
(10_state.md rule R39). -/

namespace Sys2Proof.Machine

/-- The four fatal conditions (60_exceptions.md rule R220). As a step's outcome each is raised by `step` alone, on a
machine whose fault latch is already set (40_step_and_control.md rule R102): the machine stops, nothing changes. Safe: the
spec answers the same. A step that newly meets the condition is a next state with the latch set (rule R221). -/
inductive Fault where
  /-- A word of the illegal space was fetched (30_encoding.md rule R78). Latched by `step`. Safe. -/
  | decodeError
  /-- The pc, a memory access or a key index is out of range. Latched by `step` (fetch), by LD [I] Vx, LD Vx [I],
  LD B Vx, DRW, SKP and SKNP. Safe. -/
  | outOfBounds
  /-- CALL with the stack full (40_step_and_control.md rule R109). Latched by CALL. Safe. -/
  | stackOverflow
  /-- RET with the stack empty (40_step_and_control.md rule R110). Latched by RET. Safe. -/
  | stackUnderflow
deriving DecidableEq, Repr

/-- Why a step has no meaning. -/
inductive Refusal where
  /-- The instruction has no meaning in this model: raised by `exec`'s arms alone. Safe. No arm raises it now. -/
  | notModelled (mnemonic : String)
  /-- RET with sp above 16: raised by `execRet` alone. 10_state.md rule R28 calls such values unreachable and gives RET no
  stack entry to read there. Safe: no state reachable from reset has it (`State.Inv`). Log entry 12. -/
  | stackPointerOutOfRange
deriving DecidableEq, Repr

/-- The result of one `step()` (40_step_and_control.md rule R101). -/
inductive StepResult where
  /-- `Continue`: the instruction completed. -/
  | cont
  /-- `Halted`: the break word was executed. -/
  | halted
  /-- `AwaitingInput`: a wait-for-key found no key pressed. -/
  | awaitingInput
  /-- `Fault(kind)`. -/
  | fault (kind : Fault)
deriving DecidableEq, Repr

/-- The record in the fault latch (10_state.md rule R34, 60_exceptions.md rule R222). -/
structure FaultRecord where
  kind : Fault
  /-- `at`: the address of the instruction whose step faulted. -/
  pcAt : Word
  /-- The fetched word, none when the fetch itself faulted. -/
  word : Option Word
deriving DecidableEq, Repr

/-- Byte memory (20_memory.md rule R50) as (address, byte) pairs in one canonical form (`Memory.wf` in Ops.lean). -/
abbrev Memory := List Host.Cell

/-- The Display Surface (10_state.md rule R35): row by row, column c of a row is its bit c. -/
abbrev Frame := Vector (BitVec 64) 32

structure State where
  /-- The general registers (10_state.md rule R21); VF is V[15] (rule R22). -/
  V : Vector Byte 16
  /-- The program counter (10_state.md rule R24). -/
  pc : Word
  /-- The index register (10_state.md rule R27). -/
  I : Word
  /-- The stack pointer, the number of live return addresses (10_state.md rule R28). -/
  sp : Byte
  /-- The return addresses (10_state.md rule R29). -/
  stack : Vector Word 16
  /-- The delay timer (10_state.md rule R30). -/
  DT : Byte
  /-- The sound timer (10_state.md rule R31). -/
  ST : Byte
  /-- The key states, true is pressed (10_state.md rule R32). -/
  key : Vector Bool 16
  /-- The wait slot: the register awaiting a key (10_state.md rule R33). -/
  wait : Option Nibble
  /-- The fault latch (10_state.md rule R34). -/
  fault : Option FaultRecord
  /-- The Display Surface (10_state.md rule R35). -/
  fb : Frame
  /-- The memory (10_state.md rule R36). -/
  mem : Memory
  /-- The model's own: the result of the latest step, none when no step has been taken since reset. The spec's step
  results are outputs (10_state.md rule R20) and `Host.Outcome.next` carries none. Log entry 3. -/
  result : Option StepResult
  /-- The model's own: how many draws have been taken (00_scope.md rule R14). Log entry 4. -/
  draws : Nat
deriving DecidableEq, Repr

/-- The machine right after reset (10_state.md rule R39, 70_reset_and_hazards.md rule R260). V, I, stack, fb and the memory
outside the font are launch inputs (rule R261), here all 0 (DESIGN CHOICE, log entries 1 and 2); `resetWith` in HostOps.lean
is the reset for any launch inputs. -/
def State.reset : State where
  V := Vector.replicate 16 0#8
  pc := 0x200#16
  I := 0#16
  sp := 0#8
  stack := Vector.replicate 16 0#16
  DT := 0#8
  ST := 0#8
  key := Vector.replicate 16 false
  wait := none
  fault := none
  fb := Vector.replicate 32 0#64
  mem := []
  result := none
  draws := 0

end Sys2Proof.Machine
end

