-- ==== Sys2Proof/Machine/Ops.lean ====
section
/-! DEFINITION. The named operations over the state: memory, fetching, registers, the stack, the display surface, the end
of an instruction and taking a fault. Every meaning is written over these. -/

namespace Sys2Proof.Machine

/-! ### Memory (20_memory.md) -/

/-- `FONT_BASE` (00_scope.md rule R7): OPEN, with `FONT_BASE + 80 <= 0x200`. Log entry 7. -/
def fontBase : Nat := Config.fontBaseValue.val

/-- `FONT_DATA` (10_state.md rule R38): the standard font, the parameter's default. Log entry 8. -/
def fontData : List Byte :=
  [0xF0#8, 0x90#8, 0x90#8, 0x90#8, 0xF0#8] ++ [0x20#8, 0x60#8, 0x20#8, 0x20#8, 0x70#8] ++
  [0xF0#8, 0x10#8, 0xF0#8, 0x80#8, 0xF0#8] ++ [0xF0#8, 0x10#8, 0xF0#8, 0x10#8, 0xF0#8] ++
  [0x90#8, 0x90#8, 0xF0#8, 0x10#8, 0x10#8] ++ [0xF0#8, 0x80#8, 0xF0#8, 0x10#8, 0xF0#8] ++
  [0xF0#8, 0x80#8, 0xF0#8, 0x90#8, 0xF0#8] ++ [0xF0#8, 0x10#8, 0x20#8, 0x40#8, 0x40#8] ++
  [0xF0#8, 0x90#8, 0xF0#8, 0x90#8, 0xF0#8] ++ [0xF0#8, 0x90#8, 0xF0#8, 0x10#8, 0xF0#8] ++
  [0xF0#8, 0x90#8, 0xF0#8, 0x90#8, 0x90#8] ++ [0xE0#8, 0x90#8, 0xE0#8, 0x90#8, 0xE0#8] ++
  [0xF0#8, 0x80#8, 0x80#8, 0x80#8, 0xF0#8] ++ [0xE0#8, 0x90#8, 0x90#8, 0x90#8, 0xE0#8] ++
  [0xF0#8, 0x80#8, 0xF0#8, 0x80#8, 0xF0#8] ++ [0xF0#8, 0x80#8, 0xF0#8, 0x80#8, 0x80#8]

/-- `a` lies in the font window `FONT_BASE .. FONT_BASE+79`. The reserved region is tested first: outside it the answer
needs no value of `FONT_BASE`. -/
def inFont (a : Nat) : Bool :=
  decide (a < Config.reservedEnd) && (decide (fontBase ≤ a) && decide (a < fontBase + Config.fontBytes))

/-- What an address that memory does not list reads as: the font in its window (10_state.md rule R36), and 0 elsewhere,
where the spec leaves a launch input (DESIGN CHOICE, log entry 2). -/
def Memory.unlisted (a : Nat) : Byte :=
  if inFont a then fontData.getD (a - fontBase) 0#8 else 0#8

/-- The canonical form: addresses strictly rising, all inside memory, none listed with the byte it reads as unlisted. -/
abbrev Memory.wf (m : Memory) : Prop :=
  List.Pairwise (fun c d => c.1 < d.1) m ∧ ∀ c ∈ m, c.1 < Config.memSize ∧ c.2 ≠ Memory.unlisted c.1

/-- `MemRead(a, 1)` (00_scope.md rule R12). -/
def Memory.read : Memory → Nat → Byte
  | [], a => Memory.unlisted a
  | c :: m, a => if a = c.1 then c.2 else Memory.read m a

/-- List the byte `v` at `a`, in address order, in place of what was listed there. -/
def Memory.put : Memory → Nat → Byte → Memory
  | [], a, v => [(a, v)]
  | c :: m, a, v =>
    if a < c.1 then (a, v) :: c :: m
    else if a = c.1 then (a, v) :: m
    else c :: Memory.put m a v

/-- Take `a` off the list: it then reads as unlisted. -/
def Memory.unlist (m : Memory) (a : Nat) : Memory := List.filter (fun c => c.1 != a) m

/-- `MemWrite(a, 1, v)` (00_scope.md rule R12), keeping the canonical form. Every instruction checks its addresses before
it writes (20_memory.md rule R52), so none writes at or above MEM_SIZE; there this writes nothing. -/
def Memory.write (m : Memory) (a : Nat) (v : Byte) : Memory :=
  if a < Config.memSize then
    if v = Memory.unlisted a then Memory.unlist m a else Memory.put m a v
  else m

/-- The `n` bytes at `a`, ascending (20_memory.md rule R57). -/
def Memory.readBlock (m : Memory) (a n : Nat) : List Byte := (List.range n).map (fun i => Memory.read m (a + i))

/-- Write the bytes at `a` and up, ascending (20_memory.md rule R57). -/
def Memory.writeBlock : Memory → Nat → List Byte → Memory
  | m, _, [] => m
  | m, a, v :: vs => Memory.writeBlock (Memory.write m a v) (a + 1) vs

/-- The instruction word at `pc`, big-endian, or none where the fetch leaves memory (20_memory.md rule R54,
40_step_and_control.md rule R103). -/
def fetchWord (s : State) : Option Word :=
  if s.pc.toNat + 1 < Config.memSize then
    some (concat (Memory.read s.mem s.pc.toNat) (Memory.read s.mem (s.pc.toNat + 1)))
  else none

/-! ### Registers -/

/-- `V[x]` (00_scope.md rule R10). -/
def State.reg (s : State) (x : Nibble) : Byte := s.V[x.toNat]'x.isLt

/-- `V[x] <- v` (00_scope.md rule R10). -/
def State.setReg (s : State) (x : Nibble) (v : Byte) : State := { s with V := s.V.set x.toNat v x.isLt }

/-- `pc <- target` (00_scope.md rule R10). -/
def State.setPc (s : State) (target : Word) : State := { s with pc := target }

/-- `I <- v` (00_scope.md rule R10). -/
def State.setI (s : State) (v : Word) : State := { s with I := v }

/-- `DT <- v`. -/
def State.setDT (s : State) (v : Byte) : State := { s with DT := v }

/-- `ST <- v`. -/
def State.setST (s : State) (v : Byte) : State := { s with ST := v }

/-- Memory after the writes of an instruction. -/
def State.setMem (s : State) (m : Memory) : State := { s with mem := m }

/-- The display surface after the writes of an instruction. -/
def State.setFb (s : State) (f : Frame) : State := { s with fb := f }

/-- One draw has been taken (00_scope.md rule R14). -/
def State.countDraw (s : State) : State := { s with draws := s.draws + 1 }

/-! ### The start and the end of an instruction -/

/-- A completed step before the instruction's own writes: `pc <- p + 2` (40_step_and_control.md rule R104),
`wait <- none` (rule R105), and the result Continue (rule R100). -/
def State.advance (s : State) : State :=
  { s with pc := s.pc + 2#16, wait := none, result := some .cont }

/-- A taken skip: 2 more (40_step_and_control.md rule R115). -/
def State.skipNext (s : State) : State := { s with pc := s.pc + 2#16 }

/-- `return Halted` (40_step_and_control.md rule R106). -/
def State.halt (s : State) : State := { s with result := some .halted }

/-- `pc <- p; wait <- x; return AwaitingInput` (44_input_timers.md rule R202), from the state before the step: the pc
stays. -/
def State.awaitKey (s : State) (x : Nibble) : State :=
  { s with wait := some x, result := some .awaitingInput }

/-- TAKING A FAULT (60_exceptions.md rules R221 and R222), from the state before the step: the latch records the kind, the
address and the word, the step's result is `Fault(kind)`, and nothing else changes. There is no trap entry and no return
from it (rules R225, R226): a latched machine is left by reset only. -/
def State.takeFault (s : State) (kind : Fault) (word : Option Word) : State :=
  { s with fault := some ⟨kind, s.pc, word⟩, result := some (.fault kind) }

/-- The numeric code of a fault (60_exceptions.md rule R220). -/
def Fault.code : Fault → Nat
  | .decodeError => 1
  | .outOfBounds => 2
  | .stackOverflow => 3
  | .stackUnderflow => 4

/-! ### The return-address stack (10_state.md rules R28 and R29) -/

/-- `stack[sp] <- v; sp <- sp + 1` (40_step_and_control.md rule R109), for sp < 16. -/
def State.push (s : State) (v : Word) : State :=
  { s with stack := s.stack.setIfInBounds s.sp.toNat v, sp := s.sp + 1#8 }

/-- `sp <- sp - 1` (40_step_and_control.md rule R110). -/
def State.dropTop (s : State) : State := { s with sp := s.sp - 1#8 }

/-! ### Keys (10_state.md rule R32) -/

/-- `key[k]`, for k < 16. -/
def State.keyDown (s : State) (k : Nat) : Bool := s.key[k]?.getD false

/-- The pressed keys in rising order, the set S of 44_input_timers.md rule R202. -/
def State.pressed (s : State) : List Nat := (List.range Config.numKeys).filter (fun k => s.keyDown k)

/-- `draw_key(S)` (00_scope.md rule R14, 44_input_timers.md rule R203): the element of the nonempty S that a free value
picks. Log entry 4. -/
def drawKeyFrom (keys : List Nat) (draw : Nat) : Nat := keys.getD (draw % keys.length) 0

/-! ### The display surface (43_display.md) -/

/-- `fb[Y][X]` (43_display.md rule R180); off the surface there is no pixel and the answer is unset. -/
def Frame.pixel (f : Frame) (Y X : Nat) : Bool := (f[Y]?.getD 0#64).getLsbD X

/-- `fb[Y][X] <- fb[Y][X] ^ 1`, for a pixel on the surface. -/
def Frame.flip (f : Frame) (Y X : Nat) : Frame := f.setIfInBounds Y (f[Y]?.getD 0#64 ^^^ (1#64 <<< X))

/-- The surface with every pixel unset (43_display.md rule R184). -/
def Frame.clear : Frame := Vector.replicate 32 0#64

/-- What a draw has done so far: the surface and the collision flag c of 43_display.md rule R182. -/
structure Drawing where
  fb : Frame
  collided : Bool
deriving DecidableEq, Repr

/-- Flip one pixel on the surface, noting whether it goes from set to unset (43_display.md rule R182). -/
def flipNoting (d : Drawing) (Y X : Nat) : Drawing :=
  { fb := Frame.flip d.fb Y X, collided := d.collided || Frame.pixel d.fb Y X }

/-- One 1 bit of a sprite, at column X and row Y before the edge policy (43_display.md rules R182 and R183). -/
def plot (edge : SpriteEdge) (d : Drawing) (Y X : Nat) : Drawing :=
  match edge with
  | .wrap => flipNoting d (Y % Config.dispH) (X % Config.dispW)
  | .clip => if X < Config.dispW ∧ Y < Config.dispH then flipNoting d Y X else d

/-- One sprite byte on row Y, bit 7 at column `ox` (43_display.md rules R181 and R182). -/
def drawRow (edge : SpriteEdge) (ox Y : Nat) (b : Byte) (d : Drawing) : Drawing :=
  (List.range 8).foldl (fun d k => if b.getLsbD (7 - k) then plot edge d Y (ox + k) else d) d

/-- The sprite's bytes, one row each, rows increasing from `Y` (43_display.md rules R181 and R182). -/
def drawRows (edge : SpriteEdge) (ox : Nat) : Nat → List Byte → Drawing → Drawing
  | _, [], d => d
  | Y, b :: bs, d => drawRows edge ox (Y + 1) bs (drawRow edge ox Y b d)

/-- The whole draw at the wrapped origin of (vx, vy) (43_display.md rule R182). -/
def drawSprite (edge : SpriteEdge) (f : Frame) (vx vy : Byte) (rows : List Byte) : Drawing :=
  drawRows edge (vx.toNat % Config.dispW) (vy.toNat % Config.dispH) rows ⟨f, false⟩

end Sys2Proof.Machine
end

