-- ==== Sys2Proof/Machine/Operands.lean ====
section
/-! DEFINITION. The operand forms (30_encoding.md rule R73, 42_index_memory.md rule R166): zero-extended immediates, the
shift source, the index-relative address, and the register block V[0]..V[x]. -/

namespace Sys2Proof.Machine

/-- `zext_16(nnn)` (30_encoding.md rule R73). -/
def addrOf (nnn : Addr12) : Word := nnn.setWidth 16

/-- `zext_16` of a register value where it is added to a 16-bit register. -/
def zextByte (b : Byte) : Word := b.setWidth 16

/-- The operand s of SHR and SHL (41_alu.md rules R140 and R141). -/
def shiftOperand (src : ShiftSource) (s : State) (x y : Nibble) : Byte :=
  match src with
  | .vx => s.reg x
  | .vy => s.reg y

/-- The effective address `I + i`, a natural number without truncation (20_memory.md rule R52). -/
def indexAddr (s : State) (i : Nat) : Nat := s.I.toNat + i

/-- The last of `n + 1` bytes from I is inside memory (20_memory.md rule R52): the check made before any access. -/
def indexInBounds (s : State) (last : Nat) : Bool := decide (indexAddr s last < Config.memSize)

/-- `V[0]..V[x]`, x inclusive, ascending (42_index_memory.md rule R162). -/
def State.regBlock (s : State) (x : Nibble) : List Byte := s.V.toList.take (x.toNat + 1)

/-- `V[i] <- MemRead(I + i, 1)` for i in 0..x, ascending (42_index_memory.md rule R163). -/
def State.loadBlock (s : State) (x : Nibble) : State :=
  (List.range (x.toNat + 1)).foldl (fun t i => t.setReg (BitVec.ofNat 4 i) (Memory.read s.mem (indexAddr s i))) s

/-- The three digits of LD B, hundreds first (42_index_memory.md rule R164). -/
def bcdDigits (v : Byte) : List Byte :=
  [BitVec.ofNat 8 (v.toNat / 100), BitVec.ofNat 8 (v.toNat / 10 % 10), BitVec.ofNat 8 (v.toNat % 10)]

/-- `FONT_BASE + 5 * (v & 0xF)` (42_index_memory.md rule R165). -/
def glyphAddr (v : Byte) : Word := BitVec.ofNat 16 (fontBase + Config.glyphBytes * (v &&& 0x0F#8).toNat)

end Sys2Proof.Machine
end

