-- ==== Sys2Proof/Machine/Flags.lean ====
section
/-! DEFINITION. The flag register VF (10_state.md rules R22 and R23): each flag the spec gives, and the order in which a
result and its flag are written (41_alu.md rule R130). -/

namespace Sys2Proof.Machine

/-- VF is `V[15]` (10_state.md rule R22). -/
def regVF : Nibble := 0xF#4

/-- `LOGIC_CLEARS_VF`, true for this hardware (00_scope.md rule R7, 92_eei_decisions.md D7). Log entry 10. -/
def logicClearsVF : Bool := true

/-- A Boolean as the flag's byte (00_scope.md rule R11). -/
def flagByte (b : Bool) : Byte := if b then 1#8 else 0#8

/-- The carry out of bit 7 (41_alu.md rule R137). -/
def carryOut (a b : Byte) : Bool := decide (255 < a.toNat + b.toNat)

/-- The no-borrow flag of `a - b` (41_alu.md rules R138 and R139). -/
def noBorrow (a b : Byte) : Bool := decide (b.toNat ≤ a.toNat)

/-- The bit SHR shifts out (41_alu.md rule R140). -/
def lowBit (v : Byte) : Bool := v.getLsbD 0

/-- The bit SHL shifts out (41_alu.md rule R141). -/
def highBit (v : Byte) : Bool := v.getLsbD 7

/-- `V[15] <- flag`. -/
def State.setVF (s : State) (flag : Bool) : State := s.setReg regVF (flagByte flag)

/-- The primary result, then the flag (41_alu.md rule R130): where x is 15 the flag is what stays. -/
def State.writeWithFlag (s : State) (x : Nibble) (r : Byte) (flag : Bool) : State := (s.setReg x r).setVF flag

/-- The result of a logic operation, then `VF <- 0` under LOGIC_CLEARS_VF (41_alu.md rules R134 to R136). -/
def State.writeLogic (clears : Bool) (s : State) (x : Nibble) (r : Byte) : State :=
  if clears then s.writeWithFlag x r false else s.setReg x r

end Sys2Proof.Machine
end

