-- ==== Sys2Proof/Machine/Control.lean ====
section
/-! DEFINITION. Break, jumps, call, return and the register skips (40_step_and_control.md). Each meaning takes the state
before the step (pc = p): `advance` makes the pc p + 2 that the spec's pseudocode starts from. -/

namespace Sys2Proof.Machine

/-- How an instruction of this machine ends. -/
abbrev Result := Host.Outcome State Fault Refusal

/-- The end of a conditional skip (40_step_and_control.md rule R115): p + 4 where it is taken, else p + 2. -/
def skipIf (taken : Bool) (s : State) : Result :=
  if taken then .next s.advance.skipNext else .next s.advance

/-- BRK (40_step_and_control.md rule R106). -/
def execBrk (s : State) : Result := .next s.advance.halt

/-- JP nnn (40_step_and_control.md rule R107). -/
def execJp (nnn : Addr12) (s : State) : Result := .next (s.advance.setPc (addrOf nnn))

/-- JP V0, nnn: not masked to 12 bits (40_step_and_control.md rule R108). -/
def execJpV0 (nnn : Addr12) (s : State) : Result :=
  .next (s.advance.setPc (addrOf nnn + zextByte (s.reg 0#4)))

/-- CALL nnn (40_step_and_control.md rule R109). -/
def execCall (nnn : Addr12) (s : State) : Result :=
  if s.sp.toNat ≥ Config.stackDepth then .next (s.takeFault .stackOverflow (some (encode (.call nnn))))
  else .next ((s.advance.push (s.pc + 2#16)).setPc (addrOf nnn))

/-- RET (40_step_and_control.md rule R110). A stack pointer above 16 names no stack entry: the spec calls it unreachable
(10_state.md rule R28) and the model refuses it by name (log entry 12). -/
def execRet (s : State) : Result :=
  if s.sp = 0#8 then .next (s.takeFault .stackUnderflow (some (encode .ret)))
  else
    match s.stack[s.sp.toNat - 1]? with
    | some target => .next (s.advance.dropTop.setPc target)
    | none => .refused .stackPointerOutOfRange

/-- SE Vx, kk (40_step_and_control.md rule R111). -/
def execSeImm (x : Nibble) (kk : Byte) (s : State) : Result := skipIf (s.reg x == kk) s

/-- SNE Vx, kk (40_step_and_control.md rule R112). -/
def execSneImm (x : Nibble) (kk : Byte) (s : State) : Result := skipIf (s.reg x != kk) s

/-- SE Vx, Vy (40_step_and_control.md rule R113). -/
def execSeReg (x y : Nibble) (s : State) : Result := skipIf (s.reg x == s.reg y) s

/-- SNE Vx, Vy (40_step_and_control.md rule R114). -/
def execSneReg (x y : Nibble) (s : State) : Result := skipIf (s.reg x != s.reg y) s

end Sys2Proof.Machine
end

