-- ==== Sys2Proof/Machine/Alu.lean ====
section
/-! DEFINITION. Register loads, arithmetic, logic, shifts and random (41_alu.md). Every operand is read from the state
before the step, then the result and then the flag are written (rule R130). -/

namespace Sys2Proof.Machine

/-- LD Vx, kk (41_alu.md rule R131). -/
def execLdImm (x : Nibble) (kk : Byte) (s : State) : Result := .next (s.advance.setReg x kk)

/-- ADD Vx, kk: no flag (41_alu.md rule R132). -/
def execAddImm (x : Nibble) (kk : Byte) (s : State) : Result := .next (s.advance.setReg x (s.reg x + kk))

/-- LD Vx, Vy (41_alu.md rule R133). -/
def execLdReg (x y : Nibble) (s : State) : Result := .next (s.advance.setReg x (s.reg y))

/-- OR Vx, Vy (41_alu.md rule R134). -/
def execOrReg (x y : Nibble) (s : State) : Result :=
  .next (State.writeLogic logicClearsVF s.advance x (s.reg x ||| s.reg y))

/-- AND Vx, Vy (41_alu.md rule R135). -/
def execAndReg (x y : Nibble) (s : State) : Result :=
  .next (State.writeLogic logicClearsVF s.advance x (s.reg x &&& s.reg y))

/-- XOR Vx, Vy (41_alu.md rule R136). -/
def execXorReg (x y : Nibble) (s : State) : Result :=
  .next (State.writeLogic logicClearsVF s.advance x (s.reg x ^^^ s.reg y))

/-- ADD Vx, Vy (41_alu.md rule R137). -/
def execAddReg (x y : Nibble) (s : State) : Result :=
  .next (s.advance.writeWithFlag x (s.reg x + s.reg y) (carryOut (s.reg x) (s.reg y)))

/-- SUB Vx, Vy (41_alu.md rule R138). -/
def execSubReg (x y : Nibble) (s : State) : Result :=
  .next (s.advance.writeWithFlag x (s.reg x - s.reg y) (noBorrow (s.reg x) (s.reg y)))

/-- SUBN Vx, Vy (41_alu.md rule R139, 90_conflicts.md C1). -/
def execSubnReg (x y : Nibble) (s : State) : Result :=
  .next (s.advance.writeWithFlag x (s.reg y - s.reg x) (noBorrow (s.reg y) (s.reg x)))

/-- SHR with its source given (41_alu.md rule R140). -/
def shrFrom (src : ShiftSource) (x y : Nibble) (s : State) : State :=
  s.advance.writeWithFlag x (shiftOperand src s x y >>> 1) (lowBit (shiftOperand src s x y))

/-- SHL with its source given (41_alu.md rule R141). -/
def shlFrom (src : ShiftSource) (x y : Nibble) (s : State) : State :=
  s.advance.writeWithFlag x (shiftOperand src s x y <<< 1) (highBit (shiftOperand src s x y))

/-- SHR Vx, Vy (41_alu.md rule R140), SHIFT_SOURCE open (log entry 9). -/
def execShr (x y : Nibble) (s : State) : Result := .next (shrFrom Config.shiftSource x y s)

/-- SHL Vx, Vy (41_alu.md rule R141), SHIFT_SOURCE open (log entry 9). -/
def execShl (x y : Nibble) (s : State) : Result := .next (shlFrom Config.shiftSource x y s)

/-- RND Vx, kk (41_alu.md rule R142): the byte drawn is a free value (log entry 4). -/
def execRnd (x : Nibble) (kk : Byte) (s : State) : Result :=
  .next (s.advance.countDraw.setReg x (Config.drawByte s.draws &&& kk))

end Sys2Proof.Machine
end

