-- ==== Sys2Proof/Machine/Display.lean ====
section
/-! DEFINITION. The sprite draw with its collision flag, and the clear (43_display.md). -/

namespace Sys2Proof.Machine

/-- CLS: VF not written (43_display.md rule R184). -/
def execCls (s : State) : Result := .next (s.advance.setFb Frame.clear)

/-- The state after a draw whose bytes are inside memory, with its edge policy given (43_display.md rule R182). The flag is
that of rule R182's pseudocode in the second of two equal draws too, where rule R185 (b) infers another one if every covered
pixel was set before the first (DESIGN CHOICE, log entry 16). -/
def drawFrom (edge : SpriteEdge) (x y n : Nibble) (s : State) : State :=
  let d := drawSprite edge s.fb (s.reg x) (s.reg y) (Memory.readBlock s.mem (indexAddr s 0) n.toNat)
  (s.advance.setFb d.fb).setVF d.collided

/-- DRW Vx, Vy, n (43_display.md rule R182), SPRITE_EDGE open (log entry 9). -/
def execDrw (x y n : Nibble) (s : State) : Result :=
  if indexInBounds s (n.toNat - 1) then .next (drawFrom Config.spriteEdge x y n s)
  else .next (s.takeFault .outOfBounds (some (encode (.drw x y n))))

end Sys2Proof.Machine
end

