-- ==== Sys2Proof/Machine/IndexMemory.lean ====
section
/-! DEFINITION. The index register and the memory transfers (42_index_memory.md). Every address is checked before any
access (20_memory.md rule R52), and no memory instruction changes I (42_index_memory.md rule R166). -/

namespace Sys2Proof.Machine

/-- LD I, nnn (42_index_memory.md rule R160). -/
def execLdI (nnn : Addr12) (s : State) : Result := .next (s.advance.setI (addrOf nnn))

/-- ADD I, Vx: modulo 65536, no flag (42_index_memory.md rule R161). -/
def execAddI (x : Nibble) (s : State) : Result := .next (s.advance.setI (s.I + zextByte (s.reg x)))

/-- LD F, Vx (42_index_memory.md rule R165). -/
def execLdF (x : Nibble) (s : State) : Result := .next (s.advance.setI (glyphAddr (s.reg x)))

/-- LD [I], Vx (42_index_memory.md rule R162). -/
def execLdMemVx (x : Nibble) (s : State) : Result :=
  if indexInBounds s x.toNat then
    .next (s.advance.setMem (Memory.writeBlock s.mem (indexAddr s 0) (s.regBlock x)))
  else .next (s.takeFault .outOfBounds (some (encode (.ldMemVx x))))

/-- LD Vx, [I] (42_index_memory.md rule R163). -/
def execLdVxMem (x : Nibble) (s : State) : Result :=
  if indexInBounds s x.toNat then .next (s.advance.loadBlock x)
  else .next (s.takeFault .outOfBounds (some (encode (.ldVxMem x))))

/-- LD B, Vx (42_index_memory.md rule R164). -/
def execLdB (x : Nibble) (s : State) : Result :=
  if indexInBounds s 2 then
    .next (s.advance.setMem (Memory.writeBlock s.mem (indexAddr s 0) (bcdDigits (s.reg x))))
  else .next (s.takeFault .outOfBounds (some (encode (.ldB x))))

end Sys2Proof.Machine
end

