-- ==== Sys2Proof/Machine/Input.lean ====
section
/-! DEFINITION. The key skips, the wait for a key and the timer transfers (44_input_timers.md). -/

namespace Sys2Proof.Machine

/-- SKP Vx (44_input_timers.md rule R200). -/
def execSkp (x : Nibble) (s : State) : Result :=
  if (s.reg x).toNat ≥ Config.numKeys then .next (s.takeFault .outOfBounds (some (encode (.skp x))))
  else skipIf (s.keyDown (s.reg x).toNat) s

/-- SKNP Vx (44_input_timers.md rule R201). -/
def execSknp (x : Nibble) (s : State) : Result :=
  if (s.reg x).toNat ≥ Config.numKeys then .next (s.takeFault .outOfBounds (some (encode (.sknp x))))
  else skipIf (!s.keyDown (s.reg x).toNat) s

/-- LD Vx, K (44_input_timers.md rules R202 and R203): with no key pressed the pc stays and the step answers
AwaitingInput; else one of the pressed keys, a free choice, is stored (log entry 4). -/
def execLdVxK (x : Nibble) (s : State) : Result :=
  match s.pressed with
  | [] => .next (s.awaitKey x)
  | k :: ks =>
    .next (s.advance.countDraw.setReg x (BitVec.ofNat 8 (drawKeyFrom (k :: ks) (Config.drawKey s.draws))))

/-- LD Vx, DT (44_input_timers.md rule R205). -/
def execLdVxDT (x : Nibble) (s : State) : Result := .next (s.advance.setReg x s.DT)

/-- LD DT, Vx (44_input_timers.md rule R206). -/
def execLdDTVx (x : Nibble) (s : State) : Result := .next (s.advance.setDT (s.reg x))

/-- LD ST, Vx (44_input_timers.md rule R207). -/
def execLdSTVx (x : Nibble) (s : State) : Result := .next (s.advance.setST (s.reg x))

end Sys2Proof.Machine
end

