-- ==== Sys2Proof/Machine/Step.lean ====
section
/-! DEFINITION. One `step()` (40_step_and_control.md rule R100), in the order of checks of 60_exceptions.md rule R223: the
latch, the fetch, the decoding, then the instruction's own check inside `exec`. -/

namespace Sys2Proof.Machine

/-- One step. A latched machine answers its fault and changes nothing (rule R102). A fetch outside memory and an illegal
word take their fault (rules R103, R100); every other word runs its instruction. -/
def step (s : State) : Host.Outcome State Fault Refusal :=
  match s.fault with
  | some r => .fault r.kind
  | none =>
    match fetchWord s with
    | none => .next (s.takeFault .outOfBounds none)
    | some w =>
      match decodeWord w with
      | .ok i => exec i s
      | .error _ => .next (s.takeFault .decodeError (some w))

/-- `s` with the instruction of the given bits stored at the pc, big-endian. A set latch would keep the next step from
fetching, so it is cleared; nothing else changes. -/
def State.withFetchWord (s : State) (nbits w : Nat) : State :=
  { s with mem := Memory.writeBlock s.mem s.pc.toNat (tableBytes nbits w), fault := none }

end Sys2Proof.Machine
end

