-- ==== Sys2Proof/Machine/HostOps.lean ====
section
/-! DEFINITION. The host interface (60_exceptions.md rule R235): reset with launch inputs, load, tick, set_key, inspect and
sound_value beside step, and the total order of operations (rule R236) as a list of them. -/

namespace Sys2Proof.Machine

/-- The launch inputs: what reset leaves unspecified (70_reset_and_hazards.md rule R261). -/
structure Launch where
  V : Vector Byte 16
  I : Word
  stack : Vector Word 16
  fb : Frame
  /-- Every byte of memory; the font then overwrites its window. -/
  mem : Memory
deriving DecidableEq, Repr

/-- All launch inputs 0, which a deterministic simulator may use (70_reset_and_hazards.md rule R261). -/
def Launch.zero : Launch where
  V := Vector.replicate 16 0#8
  I := 0#16
  stack := Vector.replicate 16 0#16
  fb := Vector.replicate 32 0#64
  mem := []

/-- `mem[FONT_BASE .. FONT_BASE+79] <- FONT_DATA` (70_reset_and_hazards.md rule R260): an address of the font window that is
not listed reads as FONT_DATA. -/
def Memory.preloadFont (m : Memory) : Memory := List.filter (fun c => !inFont c.1) m

/-- `reset()` (70_reset_and_hazards.md rule R260) for given launch inputs. Draws go on from where they were, so that a draw
after a reset is a fresh one (00_scope.md rule R14). -/
def State.resetWith (l : Launch) (draws : Nat) : State where
  V := l.V
  pc := 0x200#16
  I := l.I
  sp := 0#8
  stack := l.stack
  DT := 0#8
  ST := 0#8
  key := Vector.replicate 16 false
  wait := none
  fault := none
  fb := l.fb
  mem := Memory.preloadFont l.mem
  result := none
  draws := draws

/-- `load(bytes)` (70_reset_and_hazards.md rule R262): only between a reset and the first step after it, and only what
fits; none is a refusal of the operation. -/
def State.load (s : State) (bytes : List Byte) : Option State :=
  if s.result = none ∧ Config.loadBase + bytes.length ≤ Config.memSize then
    some (s.setMem (Memory.writeBlock s.mem Config.loadBase bytes))
  else none

/-- One timer's countdown: it stops at 0 (60_exceptions.md rule R230). -/
def countDown (t : Byte) : Byte := if 0 < t.toNat then t - 1#8 else t

/-- `tick()` (60_exceptions.md rules R230 and R231), whatever the machine's status. -/
def State.tick (s : State) : State := (s.setDT (countDown s.DT)).setST (countDown s.ST)

/-- `set_key(k, pressed)` (60_exceptions.md rule R233); none is a refusal of the operation. -/
def State.setKey (s : State) (k : Nat) (pressed : Bool) : Option State :=
  if h : k < Config.numKeys then some { s with key := s.key.set k pressed h } else none

/-- What `inspect()` shows (60_exceptions.md rule R235): DT is not among it (rule R232). -/
structure Inspection where
  V : Vector Byte 16
  I : Word
  pc : Word
  sp : Byte
  stack : Vector Word 16
  mem : Memory
  fb : Frame
  wait : Option Nibble
  fault : Option FaultRecord
deriving DecidableEq, Repr

/-- `inspect()` (60_exceptions.md rule R235). -/
def State.inspect (s : State) : Inspection :=
  ⟨s.V, s.I, s.pc, s.sp, s.stack, s.mem, s.fb, s.wait, s.fault⟩

/-- `sound_value` (60_exceptions.md rule R232). -/
def State.soundValue (s : State) : Byte := s.ST

/-- One host operation (60_exceptions.md rule R235). -/
inductive HostOp where
  /-- `reset()`, with the launch inputs that happen to stand in the machine. -/
  | reset (launch : Launch)
  | load (bytes : List Byte)
  | step
  | tick
  | setKey (k : Nat) (pressed : Bool)
  | inspect
  | soundValue
deriving DecidableEq, Repr

/-- What a host operation answers (60_exceptions.md rule R235). -/
inductive Reply where
  | done
  /-- The operation is not admitted and nothing has changed. -/
  | refused
  /-- The result of a step. -/
  | stepped (r : StepResult)
  | inspected (i : Inspection)
  | sound (v : Byte)
deriving DecidableEq, Repr

/-- `step()` as the host sees it: the machine afterwards and the step's result (40_step_and_control.md rules R100 to R102).
The last arm is `step`'s refusal of a stack pointer above 16, which no reachable machine has (log entry 12). -/
def hostStep (s : State) : State × Reply :=
  match step s with
  | .next t =>
    match t.result with
    | some r => (t, .stepped r)
    | none => (t, .done)
  | .fault k => (s, .stepped (.fault k))
  | .refused _ => (s, .refused)

/-- One host operation on the machine (60_exceptions.md rules R235 and R236). -/
def hostOp (op : HostOp) (s : State) : State × Reply :=
  match op with
  | .reset l => (State.resetWith l s.draws, .done)
  | .load bytes =>
    match s.load bytes with
    | some t => (t, .done)
    | none => (s, .refused)
  | .step => hostStep s
  | .tick => (s.tick, .done)
  | .setKey k pressed =>
    match s.setKey k pressed with
    | some t => (t, .done)
    | none => (s, .refused)
  | .inspect => (s, .inspected s.inspect)
  | .soundValue => (s, .sound s.soundValue)

/-- A host's operations in their one total order (60_exceptions.md rule R236). -/
def hostRun : List HostOp → State → State × List Reply
  | [], s => (s, [])
  | op :: ops, s =>
    let (t, r) := hostOp op s
    let (u, rs) := hostRun ops t
    (u, r :: rs)

end Sys2Proof.Machine
end

