-- ==== Sys2Proof/Safety.lean ====
section
/-! DEFINITION. The terms in which claims are made: the invariant of the machine, what a run's end is, what a statement
means by "unchanged", and the declarative reading of a sprite draw. -/

namespace Sys2Proof.Machine

/-- The largest pc there is (10_state.md rule R26): 0xFFF + 0xFF. -/
@[simp] abbrev maxPc : Nat := 0x10FE

/-- What holds of the machine at reset and after every host operation. -/
structure State.Inv (s : State) : Prop where
  /-- Memory is in canonical form. -/
  memCanonical : s.mem.wf
  /-- `sp` is 0..16 (10_state.md rule R28). -/
  spBound : s.sp.toNat ≤ Config.stackDepth
  /-- The pc never wraps (10_state.md rule R26). -/
  pcBound : s.pc.toNat ≤ maxPc
  /-- A live return address is p + 2 of a CALL that was fetched inside memory (40_step_and_control.md rules R103, R109). -/
  liveStack : ∀ j : Fin 16, j.val < s.sp.toNat → s.stack[j].toNat ≤ Config.memSize
  /-- While the wait slot holds x, the latest step answered AwaitingInput, and the pc still names the `LD Vx, K` that
  suspended (10_state.md rule R33, 44_input_timers.md rule R202). -/
  waiting : ∀ x, s.wait = some x → s.fault = none ∧ s.result = some .awaitingInput ∧
    ∃ w, fetchWord s = some w ∧ decodeWord w = .ok (.ldVxK x)
  /-- The latch tells the address the pc still holds, and the word still standing there (60_exceptions.md rules R221, R222),
  and the latest result is that fault. -/
  latched : ∀ r, s.fault = some r → r.pcAt = s.pc ∧ r.word = fetchWord s ∧ s.result = some (.fault r.kind)
  /-- Until the first step after a reset the machine stands at the entry point (70_reset_and_hazards.md rule R263). -/
  fresh : s.result = none → s.pc = 0x200#16 ∧ s.sp = 0#8 ∧ s.wait = none ∧ s.fault = none

/-- A run ends well at Halted (40_step_and_control.md rule R117). -/
def State.EndsWell (s : State) : Prop := s.result = some .halted

/-- A run ends badly at Fault(kind) (40_step_and_control.md rule R117). -/
def State.EndsBadly (s : State) : Prop := ∃ k, s.result = some (.fault k)

/-- A run is pending a key (40_step_and_control.md rules R101 and R117). -/
def State.Pending (s : State) : Prop := s.result = some .awaitingInput

/-! ### What a statement means by "unchanged" -/

/-- Every general register but those named is unchanged. -/
def KeepsRegsBut (named : List Nibble) (s t : State) : Prop := ∀ j, j ∉ named → t.reg j = s.reg j

/-- Every byte of memory reads as before. -/
def KeepsMem (s t : State) : Prop := ∀ a, t.mem.read a = s.mem.read a

/-- Every byte outside the `n` bytes at `a` reads as before. -/
def KeepsMemOutside (a n : Nat) (s t : State) : Prop := ∀ b, ¬(a ≤ b ∧ b < a + n) → t.mem.read b = s.mem.read b

/-- The stack pointer and every stack entry are unchanged. -/
def KeepsStack (s t : State) : Prop := t.sp = s.sp ∧ t.stack = s.stack

/-- Both timers are unchanged. -/
def KeepsTimers (s t : State) : Prop := t.DT = s.DT ∧ t.ST = s.ST

/-- Every pixel is unchanged. -/
def KeepsDisplay (s t : State) : Prop := t.fb = s.fb

/-- The keys and the fault latch are unchanged: no completed instruction touches them. -/
def KeepsKeysAndLatch (s t : State) : Prop := t.key = s.key ∧ t.fault = s.fault

/-- The step completed with Continue, and the wait slot is clear (40_step_and_control.md rules R100 and R105). -/
def Continued (t : State) : Prop := t.result = some .cont ∧ t.wait = none

/-- The pc is that of the next instruction (10_state.md rule R25, first line). -/
def PcNext (s t : State) : Prop := t.pc = s.pc + 2#16

/-- `t` is `s` with this fault taken (60_exceptions.md rule R221), field by field. -/
structure FaultTaken (kind : Fault) (word : Option Word) (s t : State) : Prop where
  latch : t.fault = some ⟨kind, s.pc, word⟩
  result : t.result = some (.fault kind)
  rest : t.V = s.V ∧ t.pc = s.pc ∧ t.I = s.I ∧ t.sp = s.sp ∧ t.stack = s.stack ∧ t.DT = s.DT ∧ t.ST = s.ST ∧
    t.key = s.key ∧ t.wait = s.wait ∧ t.fb = s.fb ∧ t.mem = s.mem ∧ t.draws = s.draws

/-- The next step faults at its fetch (40_step_and_control.md rule R103). -/
def FetchFaults (t : State) : Prop := ∃ u, step t = .next u ∧ FaultTaken .outOfBounds none t u

/-- The frame of an instruction that writes general registers and nothing else: it continues at the next instruction and
changes only the registers named. `drawn` is the number of draws it takes (00_scope.md rule R14). -/
structure WritesRegsOnly (named : List Nibble) (drawn : Nat) (s t : State) : Prop where
  continued : Continued t
  pc : PcNext s t
  regs : KeepsRegsBut named s t
  index : t.I = s.I
  stack : KeepsStack s t
  timers : KeepsTimers s t
  keysAndLatch : KeepsKeysAndLatch s t
  display : KeepsDisplay s t
  mem : KeepsMem s t
  draws : t.draws = s.draws + drawn

/-- The frame of an instruction that writes the pc, and the stack if it says so, and nothing else. -/
structure WritesPcOnly (s t : State) : Prop where
  wait : t.wait = none
  regs : KeepsRegsBut [] s t
  index : t.I = s.I
  timers : KeepsTimers s t
  keysAndLatch : KeepsKeysAndLatch s t
  display : KeepsDisplay s t
  mem : KeepsMem s t
  draws : t.draws = s.draws

/-- The frame of an instruction that continues at the next instruction and leaves every general register, the stack and the
keys: what it writes, I, a timer, memory or the display, is for the statement to say. -/
structure WritesNoRegs (s t : State) : Prop where
  continued : Continued t
  pc : PcNext s t
  regs : KeepsRegsBut [] s t
  stack : KeepsStack s t
  keysAndLatch : KeepsKeysAndLatch s t
  draws : t.draws = s.draws

/-! ### The opcode map (30_encoding.md rule R76) -/

/-- `w` meets the row of `i`: `(w & mask) == match` and the row's extra condition (30_encoding.md rule R74). -/
def InRow (i : Instr) (w : Word) : Prop :=
  w &&& rowMask i = rowMatch i ∧ ∀ x y n, i = .drw x y n → fieldN w ≠ 0#4

/-- Two instructions are of one row. -/
def SameRow (i j : Instr) : Prop := rowMask i = rowMask j ∧ rowMatch i = rowMatch j

/-- The illegal space of rows 2 to 35 as 30_encoding.md rule R78 lists it, nibble by nibble. -/
def IllegalSpace (w : Word) : Prop :=
  (fieldFamily w = 0x0#4 ∧ w ≠ 0x00E0#16 ∧ w ≠ 0x00EE#16) ∨
  (fieldFamily w = 0x5#4 ∧ fieldN w ≠ 0x0#4) ∨
  (fieldFamily w = 0x8#4 ∧ fieldN w ∈ [0x8#4, 0x9#4, 0xA#4, 0xB#4, 0xC#4, 0xD#4, 0xF#4]) ∨
  (fieldFamily w = 0x9#4 ∧ fieldN w ≠ 0x0#4) ∨
  (fieldFamily w = 0xD#4 ∧ fieldN w = 0x0#4) ∨
  (fieldFamily w = 0xE#4 ∧ fieldKK w ∉ [0x9E#8, 0xA1#8]) ∨
  (fieldFamily w = 0xF#4 ∧
    fieldKK w ∉ [0x07#8, 0x0A#8, 0x15#8, 0x18#8, 0x1E#8, 0x29#8, 0x33#8, 0x55#8, 0x65#8])

/-! ### A sprite draw, pixel by pixel (43_display.md rules R181 to R183) -/

/-- Some 1 bit of a sprite of `n` rows, bit 7 - k of byte r, lands on pixel (X, Y) from the origin (ox, oy). -/
def Covers (edge : SpriteEdge) (ox oy n : Nat) (byte : Nat → Byte) (Y X : Nat) : Prop :=
  ∃ r k, r < n ∧ k < 8 ∧ (byte r).getLsbD (7 - k) = true ∧
    match edge with
    | .wrap => X = (ox + k) % Config.dispW ∧ Y = (oy + r) % Config.dispH
    | .clip => X = ox + k ∧ Y = oy + r

/-- The pixel (X, Y) of the surface is one that `DRW Vx, Vy, n` flips from the state `s` (43_display.md rule R182). -/
def DrawCovers (x y n : Nibble) (s : State) (Y X : Nat) : Prop :=
  Y < Config.dispH ∧ X < Config.dispW ∧
    Covers Config.spriteEdge ((s.reg x).toNat % Config.dispW) ((s.reg y).toNat % Config.dispH) n.toNat
      (fun r => s.mem.read (s.I.toNat + r)) Y X

end Sys2Proof.Machine
end

