-- ==== Sys2Proof/Certificates/Slice0/Obligations.lean ====
section
/-! DEFINITION. The statements for the provers, from the numbered rules of spec/, in the order of its files: encoding, the
step and its faults, the invariant, control, arithmetic, index and memory, display, keys and timers, the host interface. -/

open Sys2Proof Sys2Proof.Machine

/-! ### Encoding (30_encoding.md) -/

/-- Decode of encode, words and bytes in memory order, for every well-formed instruction (rules R71 to R74, R76). -/
def Obligations.DecodeOfEncode : Prop :=
  ∀ (i : Instr) (rest : List Byte), i.wf = true →
    decodeWord (encode i) = .ok i ∧ decode (encodeBytes i ++ rest) = .ok (i, rest)

/-- Encode of decode: each recognized word is the word of exactly the instruction it decodes to (rules R76, R80). -/
def Obligations.EncodeOfDecode : Prop :=
  ∀ (w : Word) (i : Instr), decodeWord w = .ok i → i.wf = true ∧ encode i = w

/-- The words that are rejected are the illegal space without BREAK_WORD (rule R78). -/
def Obligations.IllegalSpaceIsExact : Prop :=
  ∀ w : Word, decodeWord w = .error (.illegal w) ↔ w ≠ breakWord ∧ IllegalSpace w

/-- Exactly one row of the opcode map matches a word or none does, and the decoder answers an instruction of that row, or
rejects (rules R74, R76, R80). -/
def Obligations.OneRowMatchesAndDecodes : Prop :=
  ∀ w : Word,
    (∀ i j, InRow i w → InRow j w → SameRow i j) ∧
    (∀ i, InRow i w → ∃ j, decodeWord w = .ok j ∧ SameRow i j) ∧
    (∀ j, decodeWord w = .ok j → InRow j w) ∧
    ((∀ i, ¬InRow i w) → decodeWord w = .error (.illegal w))

/-- BREAK_WORD matches no row other than BRK itself (rule R75). -/
def Obligations.BreakWordMatchesOnlyItsRow : Prop :=
  ∀ i : Instr, InRow i breakWord ↔ i = .brk

/-- Words written out from the opcode map decode to what they stand for, one or more of each family (rule R76). -/
def Obligations.SampleWordsDecode : Prop :=
  [0x00E0#16, 0x00EE#16, 0x1208#16, 0x2300#16, 0x3310#16, 0x4310#16, 0x5120#16, 0x6A0E#16, 0x7A03#16].map decodeRow =
    [some .cls, some .ret, some (.jp 0x208#12), some (.call 0x300#12), some (.seImm 3#4 0x10#8),
      some (.sneImm 3#4 0x10#8), some (.seReg 1#4 2#4), some (.ldImm 0xA#4 0x0E#8), some (.addImm 0xA#4 0x03#8)] ∧
  [0x8AE4#16, 0x8AE7#16, 0x9120#16, 0xA300#16, 0xB208#16, 0xC30F#16, 0xD015#16, 0xE59E#16, 0xF265#16].map decodeRow =
    [some (.addReg 0xA#4 0xE#4), some (.subnReg 0xA#4 0xE#4), some (.sneReg 1#4 2#4), some (.ldI 0x300#12),
      some (.jpV0 0x208#12), some (.rnd 3#4 0x0F#8), some (.drw 0#4 1#4 5#4), some (.skp 5#4), some (.ldVxMem 2#4)]

/-! ### The step, the latch and the faults (40_step_and_control.md, 60_exceptions.md) -/

/-- A step runs the instruction that the bytes at the pc decode to: `exec` of it, with nothing added around it. -/
def Obligations.StepRunsDecodedInstruction : Prop :=
  ∀ (s : State) (i : Instr) (rest : List Byte), s.fault = none → s.pc.toNat + 1 < 4096 →
    decode [s.mem.read s.pc.toNat, s.mem.read (s.pc.toNat + 1)] = .ok (i, rest) →
    step s = exec i s ∧ rest = []

/-- The fetch: OutOfBounds when it would leave memory, else the big-endian pair (rule R103). -/
def Obligations.FetchIsBoundedAndBigEndian : Prop :=
  ∀ s : State,
    (s.fault = none → 4096 ≤ s.pc.toNat + 1 → ∃ t, step s = .next t ∧ FaultTaken .outOfBounds none s t) ∧
    (s.pc.toNat + 1 < 4096 → ∃ w, fetchWord s = some w ∧
      w.toNat = (s.mem.read s.pc.toNat).toNat * 256 + (s.mem.read (s.pc.toNat + 1)).toNat)

/-- An illegal word takes DecodeError (rule R100, 30_encoding.md rule R78). -/
def Obligations.IllegalWordTakesDecodeError : Prop :=
  ∀ (s : State) (w : Word), s.fault = none → fetchWord s = some w → w ≠ breakWord → IllegalSpace w →
    ∃ t, step s = .next t ∧ FaultTaken .decodeError (some w) s t

/-- A latched machine answers its fault again and changes nothing, and no host operation but reset clears the latch
(rule R102). -/
def Obligations.LatchedMachineRepeatsItsFault : Prop :=
  ∀ (s : State) (r : FaultRecord), s.fault = some r →
    step s = .fault r.kind ∧ hostOp .step s = (s, .stepped (.fault r.kind)) ∧
    (∀ op, (∀ l, op ≠ .reset l) → (hostOp op s).1.fault = some r) ∧
    (∀ l, (hostOp (.reset l) s).1.fault = none)

/-- A faulting step, whatever the instruction, sets the latch to the kind, the address and the word, leaves everything else
as before the step, and the next step answers the same fault (60_exceptions.md rule R221). -/
def Obligations.FaultsArePreciseAndCommitNothing : Prop :=
  ∀ (s t : State) (r : FaultRecord), step s = .next t → t.fault = some r →
    FaultTaken r.kind r.word s t ∧ r.word = fetchWord s ∧ step t = .fault r.kind

/-- Which instruction raises which fault of its own; no other does (60_exceptions.md rule R220). -/
def Obligations.FaultKindsHaveTheirRaisers : Prop :=
  ∀ (i : Instr) (s t : State) (r : FaultRecord), exec i s = .next t → s.fault = none → t.fault = some r →
    (r.kind = .stackOverflow ∧ s.sp.toNat ≥ 16 ∧ ∃ nnn, i = .call nnn) ∨
    (r.kind = .stackUnderflow ∧ s.sp = 0#8 ∧ i = .ret) ∨
    (r.kind = .outOfBounds ∧ ∃ x, (i = .ldMemVx x ∨ i = .ldVxMem x) ∧ s.I.toNat + x.toNat ≥ 4096) ∨
    (r.kind = .outOfBounds ∧ (∃ x, i = .ldB x) ∧ s.I.toNat + 2 ≥ 4096) ∨
    (r.kind = .outOfBounds ∧ ∃ x y n, i = .drw x y n ∧ s.I.toNat + (n.toNat - 1) ≥ 4096) ∨
    (r.kind = .outOfBounds ∧ ∃ x, (i = .skp x ∨ i = .sknp x) ∧ (s.reg x).toNat ≥ 16)

/-- Halted is answered by the break word alone, AwaitingInput by a wait with no key pressed alone (rule R101,
60_exceptions.md rules R227 and R237). -/
def Obligations.HaltedAndAwaitingHaveOneSource : Prop :=
  ∀ (i : Instr) (s t : State), exec i s = .next t →
    (t.result = some .halted ↔ i = .brk) ∧
    (t.result = some .awaitingInput ↔ (∃ x, i = .ldVxK x) ∧ ∀ k, k < 16 → s.keyDown k = false)

/-! ### Whole-machine rules and the invariant (10_state.md) -/

/-- Each piece of state is written only by the instructions its rule names (10_state.md rules R27, R28, R30 to R32, R35;
20_memory.md rule R51). -/
def Obligations.StateIsWrittenByItsWritersOnly : Prop :=
  ∀ (i : Instr) (s t : State), exec i s = .next t →
    ((∃ x, i = .ldMemVx x ∨ i = .ldB x) ∨ KeepsMem s t) ∧
    (i = .cls ∨ (∃ x y n, i = .drw x y n) ∨ KeepsDisplay s t) ∧
    ((∃ nnn, i = .ldI nnn) ∨ (∃ x, i = .addI x ∨ i = .ldF x) ∨ t.I = s.I) ∧
    (i = .ret ∨ (∃ nnn, i = .call nnn) ∨ KeepsStack s t) ∧
    ((∃ x, i = .ldDTVx x) ∨ t.DT = s.DT) ∧ ((∃ x, i = .ldSTVx x) ∨ t.ST = s.ST) ∧ t.key = s.key

/-- VF changes only under an instruction that has it as its flag or names it as its destination (10_state.md rules R22,
R23). -/
def Obligations.FlagIsWrittenByItsWritersOnly : Prop :=
  ∀ (i : Instr) (s t : State), exec i s = .next t → t.reg 0xF#4 ≠ s.reg 0xF#4 →
    (∃ x y, i = .orReg x y ∨ i = .andReg x y ∨ i = .xorReg x y ∨ i = .addReg x y ∨ i = .subReg x y ∨
      i = .subnReg x y ∨ i = .shr x y ∨ i = .shl x y ∨ ∃ n, i = .drw x y n) ∨
    (∃ kk, i = .ldImm 0xF#4 kk ∨ i = .addImm 0xF#4 kk ∨ i = .rnd 0xF#4 kk) ∨
    (∃ y, i = .ldReg 0xF#4 y) ∨
    i = .ldVxDT 0xF#4 ∨ i = .ldVxK 0xF#4 ∨ i = .ldVxMem 0xF#4

/-- No instruction reads ST: two runs that differ only in it end alike but for ST, and LD ST leaves the same ST
(10_state.md rule R31). -/
def Obligations.SoundTimerIsNeverRead : Prop :=
  ∀ (i : Instr) (s t : State) (v : Byte), exec i s = .next t →
    ∃ u, exec i { s with ST := v } = .next u ∧ { u with ST := t.ST } = t ∧ ((∃ x, i = .ldSTVx x) → u = t)

/-- No instruction reads a stack entry at or above sp: two runs whose live entries agree end with all but the stack alike,
and with live entries that agree (10_state.md rule R29). -/
def Obligations.StaleStackEntriesAreNeverRead : Prop :=
  ∀ (i : Instr) (s t : State) (stale : Vector Word 16), s.sp.toNat ≤ 16 → exec i s = .next t →
    (∀ j : Fin 16, j.val < s.sp.toNat → stale[j] = s.stack[j]) →
    ∃ u, exec i { s with stack := stale } = .next u ∧ { u with stack := t.stack } = t ∧
      ∀ j : Fin 16, j.val < t.sp.toNat → u.stack[j] = t.stack[j]

/-- The invariant holds right after reset, for all launch inputs whose memory is in canonical form. -/
def Obligations.ResetHasTheInvariant : Prop :=
  State.reset.Inv ∧ ∀ (l : Launch) (d : Nat), l.mem.wf → (State.resetWith l d).Inv

/-- Every step keeps the invariant. -/
def Obligations.StepKeepsTheInvariant : Prop :=
  ∀ s t : State, s.Inv → step s = .next t → t.Inv

/-- Every host operation keeps the invariant, a step that stops included. -/
def Obligations.HostOperationsKeepTheInvariant : Prop :=
  ∀ (op : HostOp) (s : State), s.Inv → (∀ l, op = .reset l → l.mem.wf) → (hostOp op s).1.Inv

/-- Under the invariant a machine that is not latched always has a next state, and the step has a result, which the host's
step() answers together with that state: nothing is refused (40_step_and_control.md rule R100, 60_exceptions.md
rule R235). -/
def Obligations.RunningMachineAlwaysSteps : Prop :=
  ∀ s : State, s.Inv → s.fault = none → ∃ t r, step s = .next t ∧ t.result = some r ∧
    hostOp .step s = (t, .stepped r)

/-! ### Control (40_step_and_control.md) -/

/-- BRK (rule R106). -/
def Obligations.BreakHalts : Prop :=
  ∀ s : State, encode .brk = breakWord ∧
    ∃ t, exec .brk s = .next t ∧ t.result = some .halted ∧ PcNext s t ∧ KeepsStack s t ∧ WritesPcOnly s t ∧
      (s.fault = none → s.pc = 0xFFE#16 → FetchFaults t)

/-- JP nnn (rule R107). -/
def Obligations.JumpGoesToTheAddress : Prop :=
  ∀ (nnn : Addr12) (s : State), (encode (.jp nnn)).toNat = 0x1000 + nnn.toNat ∧
    ∃ t, exec (.jp nnn) s = .next t ∧ Continued t ∧ t.pc.toNat = nnn.toNat ∧ KeepsStack s t ∧ WritesPcOnly s t ∧
      (s.fault = none → 4096 ≤ nnn.toNat + 1 → FetchFaults t)

/-- JP V0, nnn, unmasked (rule R108). -/
def Obligations.JumpV0IsUnmasked : Prop :=
  ∀ (nnn : Addr12) (s : State), (encode (.jpV0 nnn)).toNat = 0xB000 + nnn.toNat ∧
    ∃ t, exec (.jpV0 nnn) s = .next t ∧ Continued t ∧ t.pc.toNat = nnn.toNat + (s.reg 0#4).toNat ∧
      KeepsStack s t ∧ WritesPcOnly s t ∧
      (s.fault = none → 4096 ≤ nnn.toNat + (s.reg 0#4).toNat + 1 → FetchFaults t)

/-- CALL nnn: the push, and the overflow on a full stack (rule R109). -/
def Obligations.CallPushesOrOverflows : Prop :=
  ∀ (nnn : Addr12) (s : State), (encode (.call nnn)).toNat = 0x2000 + nnn.toNat ∧
    (16 ≤ s.sp.toNat → ∃ t, exec (.call nnn) s = .next t ∧
      FaultTaken .stackOverflow (some (encode (.call nnn))) s t) ∧
    (∀ h : s.sp.toNat < 16, ∃ t, exec (.call nnn) s = .next t ∧ Continued t ∧ t.pc.toNat = nnn.toNat ∧
      t.sp.toNat = s.sp.toNat + 1 ∧ t.stack = s.stack.set s.sp.toNat (s.pc + 2#16) h ∧ WritesPcOnly s t)

/-- RET: the pop, and the underflow on an empty stack (rule R110). -/
def Obligations.ReturnPopsOrUnderflows : Prop :=
  ∀ s : State, encode .ret = 0x00EE#16 ∧
    (s.sp.toNat = 0 → ∃ t, exec .ret s = .next t ∧ FaultTaken .stackUnderflow (some 0x00EE#16) s t) ∧
    (∀ j : Fin 16, s.sp.toNat = j.val + 1 → ∃ t, exec .ret s = .next t ∧ Continued t ∧ t.pc = s.stack[j] ∧
      t.sp.toNat = s.sp.toNat - 1 ∧ t.stack = s.stack ∧ WritesPcOnly s t)

/-- RET above 16 entries, which rule R28 of 10_state.md calls unreachable, is refused by name. The refusal is the model's
choice, log entry 12. -/
def Obligations.ReturnAboveSixteenIsRefused : Prop :=
  ∀ s : State, 16 < s.sp.toNat → exec .ret s = .refused .stackPointerOutOfRange

/-- CALL then RET comes back behind the call with the stack pointer it began with (rules R109, R110). -/
def Obligations.CallThenReturnComesBack : Prop :=
  ∀ (nnn : Addr12) (s t u : State), s.sp.toNat < 16 → exec (.call nnn) s = .next t →
    u.sp = t.sp → u.stack = t.stack →
    ∃ v, exec .ret u = .next v ∧ v.pc = s.pc + 2#16 ∧ v.sp = s.sp ∧
      ∀ j : Fin 16, j.val < s.sp.toNat → v.stack[j] = s.stack[j]

/-- SE Vx, kk and SNE Vx, kk (rules R111, R112). -/
def Obligations.ImmediateSkips : Prop :=
  ∀ (x : Nibble) (kk : Byte) (s : State),
    (encode (.seImm x kk)).toNat = 0x3000 + 256 * x.toNat + kk.toNat ∧
    (encode (.sneImm x kk)).toNat = 0x4000 + 256 * x.toNat + kk.toNat ∧
    (∃ t, exec (.seImm x kk) s = .next t ∧ Continued t ∧ KeepsStack s t ∧ WritesPcOnly s t ∧
      t.pc = s.pc + (if (s.reg x).toNat = kk.toNat then 4#16 else 2#16)) ∧
    (∃ t, exec (.sneImm x kk) s = .next t ∧ Continued t ∧ KeepsStack s t ∧ WritesPcOnly s t ∧
      t.pc = s.pc + (if (s.reg x).toNat = kk.toNat then 2#16 else 4#16))

/-- SE Vx, Vy and SNE Vx, Vy, whose words end in 0 and are in no row otherwise (rules R113, R114). -/
def Obligations.RegisterSkips : Prop :=
  ∀ (x y : Nibble) (s : State),
    (encode (.seReg x y)).toNat = 0x5000 + 256 * x.toNat + 16 * y.toNat ∧
    (encode (.sneReg x y)).toNat = 0x9000 + 256 * x.toNat + 16 * y.toNat ∧
    (∀ w : Word, fieldFamily w = 0x5#4 ∨ fieldFamily w = 0x9#4 → fieldN w ≠ 0#4 → ∀ i, i ≠ .brk → ¬InRow i w) ∧
    (∃ t, exec (.seReg x y) s = .next t ∧ Continued t ∧ KeepsStack s t ∧ WritesPcOnly s t ∧
      t.pc = s.pc + (if (s.reg x).toNat = (s.reg y).toNat then 4#16 else 2#16)) ∧
    (∃ t, exec (.sneReg x y) s = .next t ∧ Continued t ∧ KeepsStack s t ∧ WritesPcOnly s t ∧
      t.pc = s.pc + (if (s.reg x).toNat = (s.reg y).toNat then 2#16 else 4#16))

/-! ### Arithmetic and logic (41_alu.md) -/

/-- LD Vx, kk and LD Vx, Vy, without a flag (rules R131, R133). -/
def Obligations.RegisterLoads : Prop :=
  ∀ (x y : Nibble) (kk : Byte) (s : State),
    (encode (.ldImm x kk)).toNat = 0x6000 + 256 * x.toNat + kk.toNat ∧
    (encode (.ldReg x y)).toNat = 0x8000 + 256 * x.toNat + 16 * y.toNat ∧
    (∃ t, exec (.ldImm x kk) s = .next t ∧ t.reg x = kk ∧ WritesRegsOnly [x] 0 s t) ∧
    (∃ t, exec (.ldReg x y) s = .next t ∧ t.reg x = s.reg y ∧ WritesRegsOnly [x] 0 s t)

/-- ADD Vx, kk, without a flag (rule R132). -/
def Obligations.AddImmediateWrapsWithoutFlag : Prop :=
  ∀ (x : Nibble) (kk : Byte) (s : State),
    (encode (.addImm x kk)).toNat = 0x7000 + 256 * x.toNat + kk.toNat ∧
    ∃ t, exec (.addImm x kk) s = .next t ∧ (t.reg x).toNat = ((s.reg x).toNat + kk.toNat) % 256 ∧
      WritesRegsOnly [x] 0 s t

/-- OR, AND and XOR, bit by bit, with VF cleared (41_alu.md section 3). That VF always ends as 0 rests on LOGIC_CLEARS_VF
being true on this hardware: log entry 10. -/
def Obligations.LogicClearsTheFlag : Prop :=
  ∀ (x y : Nibble) (s : State),
    (encode (.orReg x y)).toNat = 0x8001 + 256 * x.toNat + 16 * y.toNat ∧
    (encode (.andReg x y)).toNat = 0x8002 + 256 * x.toNat + 16 * y.toNat ∧
    (encode (.xorReg x y)).toNat = 0x8003 + 256 * x.toNat + 16 * y.toNat ∧
    (∃ t, exec (.orReg x y) s = .next t ∧ WritesRegsOnly [x, 0xF#4] 0 s t ∧ t.reg 0xF#4 = 0#8 ∧
      (x ≠ 0xF#4 → ∀ b, (t.reg x).getLsbD b = ((s.reg x).getLsbD b || (s.reg y).getLsbD b))) ∧
    (∃ t, exec (.andReg x y) s = .next t ∧ WritesRegsOnly [x, 0xF#4] 0 s t ∧ t.reg 0xF#4 = 0#8 ∧
      (x ≠ 0xF#4 → ∀ b, (t.reg x).getLsbD b = ((s.reg x).getLsbD b && (s.reg y).getLsbD b))) ∧
    (∃ t, exec (.xorReg x y) s = .next t ∧ WritesRegsOnly [x, 0xF#4] 0 s t ∧ t.reg 0xF#4 = 0#8 ∧
      (x ≠ 0xF#4 → ∀ b, (t.reg x).getLsbD b = ((s.reg x).getLsbD b ^^ (s.reg y).getLsbD b)))

/-- The logic operation under both settings of LOGIC_CLEARS_VF: with the parameter false VF is untouched unless it is the
destination (rules R134 to R136). -/
def Obligations.LogicFlagFollowsItsParameter : Prop :=
  ∀ (clears : Bool) (s : State) (x j : Nibble) (r : Byte),
    (State.writeLogic clears s x r).reg j =
      if clears = true ∧ j = 0xF#4 then 0#8 else if j = x then r else s.reg j

/-- ADD Vx, Vy with its carry, which is what VF holds when it is the destination too (rules R137, R130). -/
def Obligations.AddSetsTheCarry : Prop :=
  ∀ (x y : Nibble) (s : State),
    (encode (.addReg x y)).toNat = 0x8004 + 256 * x.toNat + 16 * y.toNat ∧
    ∃ t, exec (.addReg x y) s = .next t ∧ WritesRegsOnly [x, 0xF#4] 0 s t ∧
      (x ≠ 0xF#4 → (t.reg x).toNat = ((s.reg x).toNat + (s.reg y).toNat) % 256) ∧
      (t.reg 0xF#4).toNat = (if (s.reg x).toNat + (s.reg y).toNat > 255 then 1 else 0)

/-- SUB and SUBN with their no-borrow flag (rules R138, R139, R130). -/
def Obligations.SubtractsSetNoBorrow : Prop :=
  ∀ (x y : Nibble) (s : State),
    (encode (.subReg x y)).toNat = 0x8005 + 256 * x.toNat + 16 * y.toNat ∧
    (encode (.subnReg x y)).toNat = 0x8007 + 256 * x.toNat + 16 * y.toNat ∧
    (∃ t, exec (.subReg x y) s = .next t ∧ WritesRegsOnly [x, 0xF#4] 0 s t ∧
      (x ≠ 0xF#4 → (t.reg x).toNat = (256 + (s.reg x).toNat - (s.reg y).toNat) % 256) ∧
      (t.reg 0xF#4).toNat = (if (s.reg y).toNat ≤ (s.reg x).toNat then 1 else 0)) ∧
    (∃ t, exec (.subnReg x y) s = .next t ∧ WritesRegsOnly [x, 0xF#4] 0 s t ∧
      (x ≠ 0xF#4 → (t.reg x).toNat = (256 + (s.reg y).toNat - (s.reg x).toNat) % 256) ∧
      (t.reg 0xF#4).toNat = (if (s.reg x).toNat ≤ (s.reg y).toNat then 1 else 0))

/-- SHR and SHL by one, from the source SHIFT_SOURCE selects, with the bit shifted out in VF (rules R140, R141, R130). -/
def Obligations.ShiftsSetTheBitShiftedOut : Prop :=
  ∀ (x y : Nibble) (s : State) (v : Nat),
    v = (match Config.shiftSource with | .vx => (s.reg x).toNat | .vy => (s.reg y).toNat) →
    (encode (.shr x y)).toNat = 0x8006 + 256 * x.toNat + 16 * y.toNat ∧
    (encode (.shl x y)).toNat = 0x800E + 256 * x.toNat + 16 * y.toNat ∧
    (∃ t, exec (.shr x y) s = .next t ∧ WritesRegsOnly [x, 0xF#4] 0 s t ∧
      (x ≠ 0xF#4 → (t.reg x).toNat = v / 2) ∧ (t.reg 0xF#4).toNat = v % 2) ∧
    (∃ t, exec (.shl x y) s = .next t ∧ WritesRegsOnly [x, 0xF#4] 0 s t ∧
      (x ≠ 0xF#4 → (t.reg x).toNat = 2 * v % 256) ∧ (t.reg 0xF#4).toNat = v / 128)

/-- RND Vx, kk: the draw masked, so no bit is set that kk lacks; the byte drawn is free, and the statement holds for every
value of it (rule R142). -/
def Obligations.RandomIsDrawnAndMasked : Prop :=
  ∀ (x : Nibble) (kk : Byte) (s : State),
    (encode (.rnd x kk)).toNat = 0xC000 + 256 * x.toNat + kk.toNat ∧
    ∃ t, exec (.rnd x kk) s = .next t ∧ WritesRegsOnly [x] 1 s t ∧
      (∀ b, (t.reg x).getLsbD b = ((Config.drawByte s.draws).getLsbD b && kk.getLsbD b))

/-! ### Index register and memory transfers (42_index_memory.md) -/

/-- LD I, ADD I and LD F; no access is made, so none faults (rules R160, R161, R165). -/
def Obligations.IndexWrites : Prop :=
  ∀ (nnn : Addr12) (x : Nibble) (s : State),
    (encode (.ldI nnn)).toNat = 0xA000 + nnn.toNat ∧
    (encode (.addI x)).toNat = 0xF01E + 256 * x.toNat ∧
    (encode (.ldF x)).toNat = 0xF029 + 256 * x.toNat ∧
    (∃ t, exec (.ldI nnn) s = .next t ∧ t.I.toNat = nnn.toNat ∧ WritesNoRegs s t ∧ KeepsTimers s t ∧
      KeepsDisplay s t ∧ KeepsMem s t) ∧
    (∃ t, exec (.addI x) s = .next t ∧ t.I.toNat = (s.I.toNat + (s.reg x).toNat) % 65536 ∧ WritesNoRegs s t ∧
      KeepsTimers s t ∧ KeepsDisplay s t ∧ KeepsMem s t) ∧
    (∃ t, exec (.ldF x) s = .next t ∧ t.I.toNat = fontBase + 5 * ((s.reg x).toNat % 16) ∧ WritesNoRegs s t ∧
      KeepsTimers s t ∧ KeepsDisplay s t ∧ KeepsMem s t)

/-- LD [I], Vx: V[0]..V[x] at I and up, I unchanged, or OutOfBounds with no byte written (rule R162). -/
def Obligations.StoreRegistersToMemory : Prop :=
  ∀ (x : Nibble) (s : State), (encode (.ldMemVx x)).toNat = 0xF055 + 256 * x.toNat ∧
    (4096 ≤ s.I.toNat + x.toNat → ∃ t, exec (.ldMemVx x) s = .next t ∧
      FaultTaken .outOfBounds (some (encode (.ldMemVx x))) s t) ∧
    (s.I.toNat + x.toNat < 4096 → ∃ t, exec (.ldMemVx x) s = .next t ∧
      (∀ j : Nibble, j.toNat ≤ x.toNat → t.mem.read (s.I.toNat + j.toNat) = s.reg j) ∧
      KeepsMemOutside (indexAddr s 0) (x.toNat + 1) s t ∧ t.I = s.I ∧ WritesNoRegs s t ∧ KeepsTimers s t ∧
      KeepsDisplay s t)

/-- LD Vx, [I]: V[0]..V[x] from I and up, the other registers and I unchanged, or OutOfBounds with no register written
(rule R163). -/
def Obligations.LoadRegistersFromMemory : Prop :=
  ∀ (x : Nibble) (s : State), (encode (.ldVxMem x)).toNat = 0xF065 + 256 * x.toNat ∧
    (4096 ≤ s.I.toNat + x.toNat → ∃ t, exec (.ldVxMem x) s = .next t ∧
      FaultTaken .outOfBounds (some (encode (.ldVxMem x))) s t) ∧
    (s.I.toNat + x.toNat < 4096 → ∃ t named, exec (.ldVxMem x) s = .next t ∧
      (∀ j : Nibble, j ∈ named ↔ j.toNat ≤ x.toNat) ∧
      (∀ j : Nibble, j.toNat ≤ x.toNat → t.reg j = s.mem.read (s.I.toNat + j.toNat)) ∧ WritesRegsOnly named 0 s t)

/-- Storing registers and loading them back from the same address yields the stored values, whatever the registers hold in
between (rules R162, R163). -/
def Obligations.StoreThenLoadRestores : Prop :=
  ∀ (x : Nibble) (s t u : State), s.I.toNat + x.toNat < 4096 → exec (.ldMemVx x) s = .next t →
    u.I = s.I → (∀ a, u.mem.read a = t.mem.read a) →
    ∃ v, exec (.ldVxMem x) u = .next v ∧ ∀ j : Nibble, j.toNat ≤ x.toNat → v.reg j = s.reg j

/-- LD B, Vx: three decimal digits, hundreds first, I unchanged, or OutOfBounds with no byte written (rule R164). -/
def Obligations.StoreDecimalDigits : Prop :=
  ∀ (x : Nibble) (s : State), (encode (.ldB x)).toNat = 0xF033 + 256 * x.toNat ∧
    (4096 ≤ s.I.toNat + 2 → ∃ t, exec (.ldB x) s = .next t ∧
      FaultTaken .outOfBounds (some (encode (.ldB x))) s t) ∧
    (s.I.toNat + 2 < 4096 → ∃ t, exec (.ldB x) s = .next t ∧
      (t.mem.read s.I.toNat).toNat = (s.reg x).toNat / 100 ∧
      (t.mem.read (s.I.toNat + 1)).toNat = (s.reg x).toNat / 10 % 10 ∧
      (t.mem.read (s.I.toNat + 2)).toNat = (s.reg x).toNat % 10 ∧
      KeepsMemOutside (indexAddr s 0) 3 s t ∧ t.I = s.I ∧ WritesNoRegs s t ∧ KeepsTimers s t ∧ KeepsDisplay s t)

/-- A stored byte is what the next fetch there reads: self-modifying code needs no fence (20_memory.md rule R63). -/
def Obligations.StoreIsSeenByTheNextFetch : Prop :=
  ∀ (x : Nibble) (s t : State), s.I = s.pc + 2#16 → 1 ≤ x.toNat → s.I.toNat + x.toNat < 4096 →
    exec (.ldMemVx x) s = .next t →
    ∃ w, fetchWord t = some w ∧ w.toNat = (s.reg 0#4).toNat * 256 + (s.reg 1#4).toNat

/-! ### Display (43_display.md) -/

/-- CLS unsets every pixel and nothing else (rule R184). -/
def Obligations.ClearUnsetsEveryPixel : Prop :=
  ∀ s : State, encode .cls = 0x00E0#16 ∧
    ∃ t, exec .cls s = .next t ∧ (∀ Y X, Frame.pixel t.fb Y X = false) ∧ t.I = s.I ∧ WritesNoRegs s t ∧
      KeepsTimers s t ∧ KeepsMem s t

/-- DRW: exactly the pixels its sprite covers are flipped, under either edge policy, and VF tells whether one of them was
set; or OutOfBounds with no pixel changed (rules R181 to R183). -/
def Obligations.DrawFlipsExactlyTheCoveredPixels : Prop :=
  ∀ (x y n : Nibble) (s : State), n ≠ 0#4 →
    (encode (.drw x y n)).toNat = 0xD000 + 256 * x.toNat + 16 * y.toNat + n.toNat ∧
    (∀ w : Word, fieldFamily w = 0xD#4 → fieldN w = 0#4 → ∀ i, i ≠ .brk → ¬InRow i w) ∧
    (4096 ≤ s.I.toNat + n.toNat - 1 → ∃ t, exec (.drw x y n) s = .next t ∧
      FaultTaken .outOfBounds (some (encode (.drw x y n))) s t) ∧
    (s.I.toNat + n.toNat - 1 < 4096 → ∃ t, exec (.drw x y n) s = .next t ∧
      (∀ Y X, DrawCovers x y n s Y X → Frame.pixel t.fb Y X = !Frame.pixel s.fb Y X) ∧
      (∀ Y X, ¬DrawCovers x y n s Y X → Frame.pixel t.fb Y X = Frame.pixel s.fb Y X) ∧
      (t.reg 0xF#4 = 1#8 ∧ (∃ Y X, DrawCovers x y n s Y X ∧ Frame.pixel s.fb Y X = true) ∨
       t.reg 0xF#4 = 0#8 ∧ ¬∃ Y X, DrawCovers x y n s Y X ∧ Frame.pixel s.fb Y X = true) ∧
      Continued t ∧ PcNext s t ∧ KeepsRegsBut [0xF#4] s t ∧ t.I = s.I ∧ KeepsStack s t ∧ KeepsTimers s t ∧
      KeepsKeysAndLatch s t ∧ KeepsMem s t ∧ t.draws = s.draws)

/-- Drawing the same sprite at the same origin a second time restores the surface. The second draw collides exactly when a 1
bit lands on a pixel that was unset before the first, as 43_display.md rule R182 computes it; where the first draw did not
collide, that is exactly when a 1 bit lands on the surface, as rule R185 (b) infers. A draw onto an unset surface never
collides. That the flag follows rule R182 where every covered pixel was set before the first draw, and rule R185 (b) says
otherwise, is the model's choice: log entry 16. -/
def Obligations.DrawTwiceCancels : Prop :=
  ∀ (x y x' y' n : Nibble) (s t u : State), n ≠ 0#4 → s.I.toNat + n.toNat - 1 < 4096 →
    u.I.toNat + n.toNat - 1 < 4096 → exec (.drw x y n) s = .next t → u.fb = t.fb →
    (u.reg x').toNat % 64 = (s.reg x).toNat % 64 → (u.reg y').toNat % 32 = (s.reg y).toNat % 32 →
    (∀ r, r < n.toNat → u.mem.read (u.I.toNat + r) = s.mem.read (s.I.toNat + r)) →
    (∃ v, exec (.drw x' y' n) u = .next v ∧ v.fb = s.fb ∧
      (v.reg 0xF#4 = 1#8 ∧ (∃ Y X, DrawCovers x y n s Y X ∧ Frame.pixel s.fb Y X = false) ∨
       v.reg 0xF#4 = 0#8 ∧ ¬∃ Y X, DrawCovers x y n s Y X ∧ Frame.pixel s.fb Y X = false) ∧
      (t.reg 0xF#4 = 0#8 → (v.reg 0xF#4 = 1#8 ↔ ∃ Y X, DrawCovers x y n s Y X)) ∧
      (t.reg 0xF#4 = 0#8 → Config.spriteEdge = .wrap → (∃ r, r < n.toNat ∧ s.mem.read (s.I.toNat + r) ≠ 0#8) →
        v.reg 0xF#4 = 1#8)) ∧
    ((∀ Y X, Frame.pixel s.fb Y X = false) → t.reg 0xF#4 = 0#8)

/-! ### Keys and timers (44_input_timers.md) -/

/-- SKP and SKNP, and the fault on a key index of 16 or more (rules R200, R201). -/
def Obligations.KeySkips : Prop :=
  ∀ (x : Nibble) (s : State),
    (encode (.skp x)).toNat = 0xE09E + 256 * x.toNat ∧ (encode (.sknp x)).toNat = 0xE0A1 + 256 * x.toNat ∧
    (16 ≤ (s.reg x).toNat →
      (∃ t, exec (.skp x) s = .next t ∧ FaultTaken .outOfBounds (some (encode (.skp x))) s t) ∧
      (∃ t, exec (.sknp x) s = .next t ∧ FaultTaken .outOfBounds (some (encode (.sknp x))) s t)) ∧
    (∀ k : Fin 16, (s.reg x).toNat = k.val →
      (∃ t, exec (.skp x) s = .next t ∧ Continued t ∧ KeepsStack s t ∧ WritesPcOnly s t ∧
        t.pc = s.pc + (if s.key[k] = true then 4#16 else 2#16)) ∧
      (∃ t, exec (.sknp x) s = .next t ∧ Continued t ∧ KeepsStack s t ∧ WritesPcOnly s t ∧
        t.pc = s.pc + (if s.key[k] = true then 2#16 else 4#16)))

/-- LD Vx, K: with no key pressed nothing changes but the wait slot and the answer; with keys pressed one of them is
stored, whichever the free choice gives (rules R202, R203). -/
def Obligations.WaitForKey : Prop :=
  ∀ (x : Nibble) (s : State), (encode (.ldVxK x)).toNat = 0xF00A + 256 * x.toNat ∧
    ((∀ k : Fin 16, s.key[k] = false) →
      ∃ t, exec (.ldVxK x) s = .next t ∧ t.result = some .awaitingInput ∧ t.wait = some x ∧ t.pc = s.pc ∧
        KeepsRegsBut [] s t ∧ t.I = s.I ∧ KeepsStack s t ∧ KeepsTimers s t ∧ KeepsKeysAndLatch s t ∧
        KeepsDisplay s t ∧ KeepsMem s t ∧ t.draws = s.draws) ∧
    ((∃ k : Fin 16, s.key[k] = true) →
      ∃ (t : State) (k : Fin 16), exec (.ldVxK x) s = .next t ∧ s.key[k] = true ∧ (t.reg x).toNat = k.val ∧
        WritesRegsOnly [x] 1 s t)

/-- Stepping at a wait with no key pressed never moves on, however often, and always answers AwaitingInput
(rule R204). -/
def Obligations.WaitingNeverAdvances : Prop :=
  ∀ (n : Nat) (x : Nibble) (s : State) (w : Word), s.fault = none → fetchWord s = some w →
    decodeWord w = .ok (.ldVxK x) → (∀ k : Fin 16, s.key[k] = false) →
    Sys2Proof.core.run (n + 1) s = .next { s with wait := some x, result := some .awaitingInput }

/-- LD Vx, DT, LD DT, Vx and LD ST, Vx (rules R205 to R207). -/
def Obligations.TimerTransfers : Prop :=
  ∀ (x : Nibble) (s : State),
    (encode (.ldVxDT x)).toNat = 0xF007 + 256 * x.toNat ∧
    (encode (.ldDTVx x)).toNat = 0xF015 + 256 * x.toNat ∧
    (encode (.ldSTVx x)).toNat = 0xF018 + 256 * x.toNat ∧
    (∃ t, exec (.ldVxDT x) s = .next t ∧ t.reg x = s.DT ∧ WritesRegsOnly [x] 0 s t) ∧
    (∃ t, exec (.ldDTVx x) s = .next t ∧ t.DT = s.reg x ∧ t.ST = s.ST ∧ t.I = s.I ∧ WritesNoRegs s t ∧
      KeepsDisplay s t ∧ KeepsMem s t) ∧
    (∃ t, exec (.ldSTVx x) s = .next t ∧ t.ST = s.reg x ∧ t.DT = s.DT ∧ t.I = s.I ∧ WritesNoRegs s t ∧
      KeepsDisplay s t ∧ KeepsMem s t)

/-! ### The host interface (60_exceptions.md, 70_reset_and_hazards.md) -/

/-- tick() counts each timer down to 0 and no further, and touches nothing else (60_exceptions.md rule R230). -/
def Obligations.TickCountsBothTimersDown : Prop :=
  ∀ s : State, ∃ t, hostOp .tick s = (t, .done) ∧ t.DT.toNat = s.DT.toNat - 1 ∧ t.ST.toNat = s.ST.toNat - 1 ∧
    t = { s with DT := t.DT, ST := t.ST }

/-- A timer set to v reads 0 after v ticks or more, and v - n after n of them (60_exceptions.md rules R230, R231). -/
def Obligations.TicksReachZeroAndStay : Prop :=
  ∀ (n : Nat) (s : State), (hostRun (List.replicate n .tick) s).1.DT.toNat = s.DT.toNat - n ∧
    (hostRun (List.replicate n .tick) s).1.ST.toNat = s.ST.toNat - n

/-- set_key sets one key, or is refused for an index of 16 or more (60_exceptions.md rule R233). -/
def Obligations.SetKeySetsOneKey : Prop :=
  ∀ (s : State) (k : Nat) (pressed : Bool),
    (16 ≤ k → hostOp (.setKey k pressed) s = (s, .refused)) ∧
    (k < 16 → ∃ t, hostOp (.setKey k pressed) s = (t, .done) ∧
      (∀ j : Fin 16, t.key[j] = if j.val = k then pressed else s.key[j]) ∧ t = { s with key := t.key })

/-- load writes its bytes at 0x200 and up between a reset and the first step after it, or is refused
(70_reset_and_hazards.md section 1). That time is where the model's own field `result` is none, which is the model's choice,
log entry 3: a reset makes it none, a step never leaves it none, and no other operation touches it. -/
def Obligations.LoadWritesAtTheLoadBase : Prop :=
  ∀ (s : State) (bytes : List Byte),
    (s.result = none → bytes.length ≤ 3584 → ∃ t, hostOp (.load bytes) s = (t, .done) ∧
      (∀ i, i < bytes.length → some (t.mem.read (0x200 + i)) = bytes[i]?) ∧
      KeepsMemOutside 0x200 bytes.length s t ∧ t = { s with mem := t.mem }) ∧
    (¬(s.result = none ∧ bytes.length ≤ 3584) → hostOp (.load bytes) s = (s, .refused)) ∧
    (∀ l, (hostOp (.reset l) s).1.result = none) ∧
    (s.Inv → (hostOp .step s).1.result ≠ none) ∧
    (∀ op, op ≠ .step → (∀ l, op ≠ .reset l) → (hostOp op s).1.result = s.result)

/-- What reset leaves, for all launch inputs: the values 10_state.md rule R39 gives, and the font at FONT_BASE
(70_reset_and_hazards.md rule R260). -/
def Obligations.ResetLeavesTheStatedValues : Prop :=
  ∀ (l : Launch) (s : State), ∃ t, hostOp (.reset l) s = (t, .done) ∧ t.pc = 0x200#16 ∧ t.sp = 0#8 ∧ t.DT = 0#8 ∧
    t.ST = 0#8 ∧ (∀ k : Fin 16, t.key[k] = false) ∧ t.wait = none ∧ t.fault = none ∧ t.V = l.V ∧ t.I = l.I ∧
    t.stack = l.stack ∧ t.fb = l.fb ∧
    (∀ i, i < 80 → some (t.mem.read (fontBase + i)) = fontData[i]?) ∧
    (∀ a, ¬(fontBase ≤ a ∧ a < fontBase + 80) → t.mem.read a = l.mem.read a)

/-- The state after reset that the model starts from: the launch inputs 0 (the model's choice, log entries 1 and 2) and the
rest as 10_state.md rule R39 gives it, glyph 0 at FONT_BASE among it. -/
def Obligations.ResetStateOfTheModel : Prop :=
  State.reset = State.resetWith Launch.zero 0 ∧
  State.reset.pc = 0x200#16 ∧ State.reset.mem.read fontBase = 0xF0#8 ∧ State.reset.mem.read (fontBase + 1) = 0x90#8 ∧
  ∀ a, 0x200 ≤ a → State.reset.mem.read a = 0#8

/-- The host changes state through reset, load, step, tick and set_key only, and load, tick and set_key each have their one
target; inspect and sound_value change nothing (60_exceptions.md rules R232, R235). -/
def Obligations.HostReachesOnlyItsTargets : Prop :=
  ∀ (op : HostOp) (s t : State) (r : Reply), hostOp op s = (t, r) →
    (op = .step ∨ (∃ l, op = .reset l) ∨ ((∃ bytes, op = .load bytes) ∧ t = { s with mem := t.mem }) ∨
      (op = .tick ∧ t = { s with DT := t.DT, ST := t.ST }) ∨
      ((∃ k pressed, op = .setKey k pressed) ∧ t = { s with key := t.key }) ∨
      (op = .inspect ∧ t = s ∧ r = .inspected ⟨s.V, s.I, s.pc, s.sp, s.stack, s.mem, s.fb, s.wait, s.fault⟩) ∨
      (op = .soundValue ∧ t = s ∧ r = .sound s.ST))
end

