-- ==== Sys2Proof/Laws/Decode.lean ====
section
/-! SUPPORT. The fields of an assembled word, the word of its fields, the bytes of a word, and BREAK_WORD. -/

namespace Sys2Proof

/-! ### Fields of a word in format XYN -/

@[simp] theorem fieldFamily_formatXYN (f x y n : Nibble) : fieldFamily (formatXYN f x y n) = f := by
  ext i hi; interval_cases i <;> simp [fieldFamily, formatXYN]

@[simp] theorem fieldX_formatXYN (f x y n : Nibble) : fieldX (formatXYN f x y n) = x := by
  ext i hi; interval_cases i <;> simp [fieldX, formatXYN]

@[simp] theorem fieldY_formatXYN (f x y n : Nibble) : fieldY (formatXYN f x y n) = y := by
  ext i hi; interval_cases i <;> simp [fieldY, formatXYN]

@[simp] theorem fieldN_formatXYN (f x y n : Nibble) : fieldN (formatXYN f x y n) = n := by
  ext i hi; interval_cases i <;> simp [fieldN, formatXYN]

/-! ### Fields of a word in format XKK -/

@[simp] theorem fieldFamily_formatXKK (f x : Nibble) (kk : Byte) : fieldFamily (formatXKK f x kk) = f := by
  ext i hi; interval_cases i <;> simp [fieldFamily, formatXKK]

@[simp] theorem fieldX_formatXKK (f x : Nibble) (kk : Byte) : fieldX (formatXKK f x kk) = x := by
  ext i hi; interval_cases i <;> simp [fieldX, formatXKK]

@[simp] theorem fieldKK_formatXKK (f x : Nibble) (kk : Byte) : fieldKK (formatXKK f x kk) = kk := by
  ext i hi; interval_cases i <;> simp [fieldKK, formatXKK]

/-! ### Fields of a word in format NNN -/

@[simp] theorem fieldFamily_formatNNN (f : Nibble) (nnn : Addr12) : fieldFamily (formatNNN f nnn) = f := by
  ext i hi; interval_cases i <;> simp [fieldFamily, formatNNN]

@[simp] theorem fieldNNN_formatNNN (f : Nibble) (nnn : Addr12) : fieldNNN (formatNNN f nnn) = nnn := by
  ext i hi; interval_cases i <;> simp [fieldNNN, formatNNN]

/-! ### A word is its fields -/

theorem formatXYN_fields (w : Word) : formatXYN (fieldFamily w) (fieldX w) (fieldY w) (fieldN w) = w := by
  ext i hi
  interval_cases i <;>
    simp [fieldFamily, fieldX, fieldY, fieldN, formatXYN]

theorem formatXKK_fields (w : Word) : formatXKK (fieldFamily w) (fieldX w) (fieldKK w) = w := by
  ext i hi
  interval_cases i <;>
    simp [fieldFamily, fieldX, fieldKK, formatXKK]

theorem formatNNN_fields (w : Word) : formatNNN (fieldFamily w) (fieldNNN w) = w := by
  ext i hi
  interval_cases i <;>
    simp [fieldFamily, fieldNNN, formatNNN]

/-- Big-endian bytes of a word, put together again (20_memory.md rule R54). -/
@[simp] theorem concat_hiByte_loByte (w : Word) : concat (hiByte w) (loByte w) = w := by
  ext i hi
  interval_cases i <;> simp [concat, hiByte, loByte]

/-! ### BREAK_WORD -/

/-- BREAK_WORD matches no row but its own (30_encoding.md rule R75). -/
theorem decodeRow_breakWord : decodeRow breakWord = none := by
  unfold breakWord
  split
  · decide
  · next h => simpa using h

/-- Comparing with BREAK_WORD first, as 30_encoding.md rule R74 has it, decodes every word alike. -/
theorem decodeWord_break_first (w : Word) :
    decodeWord w = if w = breakWord then .ok .brk else
      match decodeRow w with
      | some i => .ok i
      | none => .error (.illegal w) := by
  unfold decodeWord
  by_cases h : w = breakWord
  · subst h
    simp [decodeRow_breakWord]
  · rw [if_neg h]
    cases decodeRow w <;> simp [h]

end Sys2Proof
end

