-- ==== Sys2Proof/Laws/Memory.lean ====
section
/-! SUPPORT. The laws of memory: a read after a write, and that every operation keeps the canonical form. -/

namespace Sys2Proof.Machine

/-! ### Reading after listing and unlisting -/

theorem Memory.read_put (m : Memory) (a b : Nat) (v : Byte) :
    (Memory.put m a v).read b = if b = a then v else m.read b := by
  induction m with
  | nil => simp [Memory.put, Memory.read]
  | cons c m ih =>
    simp only [Memory.put]
    split
    · simp [Memory.read]
    · split
      · subst_vars; simp only [Memory.read]; split <;> rfl
      · simp only [Memory.read, ih]; split <;> split <;> simp_all

theorem Memory.read_filter (m : Memory) (keep : Nat → Bool) (a : Nat) :
    Memory.read (List.filter (fun c => keep c.1) m) a = if keep a then m.read a else Memory.unlisted a := by
  induction m with
  | nil => simp [Memory.read]
  | cons c m ih =>
    by_cases hc : keep c.1 <;> by_cases ha : a = c.1 <;> simp_all [Memory.read]

/-- `MemRead` after `MemWrite` (20_memory.md rule R61), for every list, canonical or not. -/
theorem Memory.read_write (m : Memory) (a b : Nat) (v : Byte) (ha : a < Config.memSize) :
    (m.write a v).read b = if b = a then v else m.read b := by
  simp only [Memory.write, ha, if_true]
  split
  · next h =>
    have e := Memory.read_filter m (fun b => b != a) b
    rw [Memory.unlist, e]
    by_cases hb : b = a <;> simp [hb, h]
  · exact Memory.read_put ..

@[simp] theorem Memory.read_write_same (m : Memory) (a : Nat) (v : Byte) (ha : a < Config.memSize) :
    (m.write a v).read a = v := by simp [Memory.read_write m a a v ha]

@[simp] theorem Memory.read_write_of_ne (m : Memory) (a b : Nat) (v : Byte) (h : b ≠ a) :
    (m.write a v).read b = m.read b := by
  by_cases ha : a < Config.memSize
  · simp [Memory.read_write m a b v ha, h]
  · simp [Memory.write, ha]

/-- What a block write leaves at every address, when the block lies inside memory. -/
theorem Memory.read_writeBlock (vs : List Byte) (m : Memory) (a b : Nat) (h : a + vs.length ≤ Config.memSize) :
    (m.writeBlock a vs).read b = if a ≤ b ∧ b < a + vs.length then vs.getD (b - a) 0#8 else m.read b := by
  induction vs generalizing m a with
  | nil => simp [Memory.writeBlock]
  | cons v vs ih =>
    simp only [List.length_cons] at h ⊢
    rw [Memory.writeBlock, ih _ _ (by omega)]
    by_cases hb : b = a
    · subst hb
      simp [Memory.read_write_same m b v (by omega)]
    · rw [Memory.read_write_of_ne _ _ _ _ hb]
      by_cases hin : a + 1 ≤ b ∧ b < a + 1 + vs.length
      · rw [if_pos hin, if_pos (by omega), show b - a = (b - (a + 1)) + 1 by omega]
        simp
      · rw [if_neg hin, if_neg (by omega)]

/-- A block write reads as before outside its block, wherever the block lies. -/
theorem Memory.read_writeBlock_outside (vs : List Byte) (m : Memory) (a b : Nat)
    (h : ¬(a ≤ b ∧ b < a + vs.length)) : (m.writeBlock a vs).read b = m.read b := by
  induction vs generalizing m a with
  | nil => rfl
  | cons v vs ih =>
    simp only [List.length_cons] at h
    rw [Memory.writeBlock, ih _ _ (by omega), Memory.read_write_of_ne _ _ _ _ (by omega)]

/-! ### The canonical form -/

theorem Memory.wf_nil : Memory.wf [] := by simp [Memory.wf]

theorem Memory.wf_filter {m : Memory} (h : m.wf) (p : Host.Cell → Bool) : Memory.wf (List.filter p m) :=
  ⟨h.1.filter p, fun c hc => h.2 c (List.mem_filter.mp hc).1⟩

theorem Memory.mem_put {m : Memory} {a : Nat} {v : Byte} {c : Host.Cell} (h : c ∈ Memory.put m a v) :
    c = (a, v) ∨ c ∈ m := by
  induction m with
  | nil => simpa [Memory.put] using h
  | cons d m ih =>
    simp only [Memory.put] at h
    split at h
    · simpa using h
    · split at h <;> simp only [List.mem_cons] at h ⊢ <;> tauto

theorem Memory.wf_put {m : Memory} (h : m.wf) {a : Nat} {v : Byte} (ha : a < Config.memSize)
    (hv : v ≠ Memory.unlisted a) : (Memory.put m a v).wf := by
  refine ⟨?_, fun c hc => (Memory.mem_put hc).elim (fun e => e ▸ ⟨ha, hv⟩) (h.2 c)⟩
  have hp := h.1
  clear h
  induction m with
  | nil => simp [Memory.put]
  | cons d m ih =>
    have ⟨hd, hm⟩ := List.pairwise_cons.mp hp
    simp only [Memory.put]
    split
    · next hlt =>
      refine List.pairwise_cons.mpr ⟨fun c hc => ?_, hp⟩
      rcases List.mem_cons.mp hc with rfl | hc
      · exact hlt
      · exact hlt.trans (hd c hc)
    · split
      · next heq => exact List.pairwise_cons.mpr ⟨fun c hc => heq ▸ hd c hc, hm⟩
      · next hlt hne =>
        refine List.pairwise_cons.mpr ⟨fun c hc => ?_, ih hm⟩
        rcases Memory.mem_put hc with rfl | hc
        · show d.1 < a
          omega
        · exact hd c hc

theorem Memory.wf_write {m : Memory} (h : m.wf) (a : Nat) (v : Byte) : (m.write a v).wf := by
  simp only [Memory.write]
  split
  · next ha =>
    split
    · exact Memory.wf_filter h _
    · next hv => exact Memory.wf_put h ha hv
  · exact h

theorem Memory.wf_writeBlock (vs : List Byte) {m : Memory} (h : m.wf) (a : Nat) : (m.writeBlock a vs).wf := by
  induction vs generalizing m a with
  | nil => exact h
  | cons v vs ih => exact ih (Memory.wf_write h a v) _

theorem Memory.wf_preloadFont {m : Memory} (h : m.wf) : m.preloadFont.wf := Memory.wf_filter h _

theorem State.reset_mem_wf : State.reset.mem.wf := Memory.wf_nil

/-- Canonical memories that read alike are equal. -/
theorem Memory.eq_of_read_eq {m m' : Memory} (h : m.wf) (h' : m'.wf) (hr : ∀ a, m.read a = m'.read a) :
    m = m' := by
  have unl : ∀ (l : Memory) (a : Nat), (∀ c ∈ l, a < c.1) → l.read a = Memory.unlisted a := by
    intro l a hl
    induction l with
    | nil => rfl
    | cons c l ih =>
      have hc : a < c.1 := hl c (by simp)
      rw [Memory.read, if_neg (by omega)]
      exact ih fun d hd => hl d (by simp [hd])
  induction m generalizing m' with
  | nil =>
    cases m' with
    | nil => rfl
    | cons c l =>
      have := hr c.1
      simp [Memory.read] at this
      exact absurd this.symm (h'.2 c (by simp)).2
  | cons c m ih =>
    have ⟨hc, hm⟩ := List.pairwise_cons.mp h.1
    cases m' with
    | nil =>
      have := hr c.1
      simp [Memory.read] at this
      exact absurd this (h.2 c (by simp)).2
    | cons d l =>
      have ⟨hd, hl⟩ := List.pairwise_cons.mp h'.1
      have key : c.1 = d.1 := by
        rcases Nat.lt_trichotomy c.1 d.1 with hlt | heq | hgt
        · have e := hr c.1
          rw [unl (d :: l) c.1 (by
            intro x hx
            rcases List.mem_cons.mp hx with rfl | hx
            · exact hlt
            · exact hlt.trans (hd x hx))] at e
          simp [Memory.read] at e
          exact absurd e (h.2 c (by simp)).2
        · exact heq
        · have e := hr d.1
          rw [unl (c :: m) d.1 (by
            intro x hx
            rcases List.mem_cons.mp hx with rfl | hx
            · exact hgt
            · exact Nat.lt_trans hgt (hc x hx))] at e
          simp [Memory.read] at e
          exact absurd e.symm (h'.2 d (by simp)).2
      have val : c.2 = d.2 := by
        have e := hr c.1
        simpa [Memory.read, key] using e
      have tail : m = l := by
        refine ih ⟨hm, fun x hx => h.2 x (by simp [hx])⟩ ⟨hl, fun x hx => h'.2 x (by simp [hx])⟩ fun a => ?_
        by_cases ha : a = c.1
        · rw [unl m a (fun x hx => ha ▸ hc x hx), unl l a (fun x hx => by rw [ha, key]; exact hd x hx)]
        · have e := hr a
          simpa [Memory.read, ha, key ▸ ha] using e
      rw [tail, show c = d from Prod.ext key val]

/-! ### The font (70_reset_and_hazards.md rule R260) -/

theorem fontBase_le : fontBase ≤ 432 := Nat.le_of_lt_succ Config.fontBaseValue.isLt

theorem inFont_iff (a : Nat) : inFont a = true ↔ fontBase ≤ a ∧ a < fontBase + 80 := by
  have := fontBase_le
  simp only [inFont, Bool.and_eq_true, decide_eq_true_eq, Config.reservedEnd, Config.fontBytes]
  omega

/-- After `reset()` byte i of the font stands at FONT_BASE + i, whatever the launch memory held. -/
theorem Memory.read_preloadFont (m : Memory) (a : Nat) :
    m.preloadFont.read a = if inFont a then fontData.getD (a - fontBase) 0#8 else m.read a := by
  have e := Memory.read_filter m (fun b => !inFont b) a
  rw [Memory.preloadFont, e]
  by_cases h : inFont a <;> simp [h, Memory.unlisted]

end Sys2Proof.Machine
end

