-- ==== Sys2Proof/Laws/State.lean ====
section
/-! SUPPORT. What each update of the state does to each field, so that no later proof unfolds a record update. -/

namespace Sys2Proof.Machine

/-! ### setReg -/

@[simp] theorem State.setReg_V (s : State) (x : Nibble) (v : Byte) : (s.setReg x v).V = s.V.set x.toNat v x.isLt := rfl
@[simp] theorem State.setReg_pc (s : State) (x : Nibble) (v : Byte) : (s.setReg x v).pc = s.pc := rfl
@[simp] theorem State.setReg_I (s : State) (x : Nibble) (v : Byte) : (s.setReg x v).I = s.I := rfl
@[simp] theorem State.setReg_sp (s : State) (x : Nibble) (v : Byte) : (s.setReg x v).sp = s.sp := rfl
@[simp] theorem State.setReg_stack (s : State) (x : Nibble) (v : Byte) : (s.setReg x v).stack = s.stack := rfl
@[simp] theorem State.setReg_DT (s : State) (x : Nibble) (v : Byte) : (s.setReg x v).DT = s.DT := rfl
@[simp] theorem State.setReg_ST (s : State) (x : Nibble) (v : Byte) : (s.setReg x v).ST = s.ST := rfl
@[simp] theorem State.setReg_key (s : State) (x : Nibble) (v : Byte) : (s.setReg x v).key = s.key := rfl
@[simp] theorem State.setReg_wait (s : State) (x : Nibble) (v : Byte) : (s.setReg x v).wait = s.wait := rfl
@[simp] theorem State.setReg_fault (s : State) (x : Nibble) (v : Byte) : (s.setReg x v).fault = s.fault := rfl
@[simp] theorem State.setReg_fb (s : State) (x : Nibble) (v : Byte) : (s.setReg x v).fb = s.fb := rfl
@[simp] theorem State.setReg_mem (s : State) (x : Nibble) (v : Byte) : (s.setReg x v).mem = s.mem := rfl
@[simp] theorem State.setReg_result (s : State) (x : Nibble) (v : Byte) : (s.setReg x v).result = s.result := rfl
@[simp] theorem State.setReg_draws (s : State) (x : Nibble) (v : Byte) : (s.setReg x v).draws = s.draws := rfl

/-! ### setPc -/

@[simp] theorem State.setPc_V (s : State) (p : Word) : (s.setPc p).V = s.V := rfl
@[simp] theorem State.setPc_pc (s : State) (p : Word) : (s.setPc p).pc = p := rfl
@[simp] theorem State.setPc_I (s : State) (p : Word) : (s.setPc p).I = s.I := rfl
@[simp] theorem State.setPc_sp (s : State) (p : Word) : (s.setPc p).sp = s.sp := rfl
@[simp] theorem State.setPc_stack (s : State) (p : Word) : (s.setPc p).stack = s.stack := rfl
@[simp] theorem State.setPc_DT (s : State) (p : Word) : (s.setPc p).DT = s.DT := rfl
@[simp] theorem State.setPc_ST (s : State) (p : Word) : (s.setPc p).ST = s.ST := rfl
@[simp] theorem State.setPc_key (s : State) (p : Word) : (s.setPc p).key = s.key := rfl
@[simp] theorem State.setPc_wait (s : State) (p : Word) : (s.setPc p).wait = s.wait := rfl
@[simp] theorem State.setPc_fault (s : State) (p : Word) : (s.setPc p).fault = s.fault := rfl
@[simp] theorem State.setPc_fb (s : State) (p : Word) : (s.setPc p).fb = s.fb := rfl
@[simp] theorem State.setPc_mem (s : State) (p : Word) : (s.setPc p).mem = s.mem := rfl
@[simp] theorem State.setPc_result (s : State) (p : Word) : (s.setPc p).result = s.result := rfl
@[simp] theorem State.setPc_draws (s : State) (p : Word) : (s.setPc p).draws = s.draws := rfl
@[simp] theorem State.setPc_reg (s : State) (p : Word) (j : Nibble) : (s.setPc p).reg j = s.reg j := rfl

/-! ### setI -/

@[simp] theorem State.setI_V (s : State) (v : Word) : (s.setI v).V = s.V := rfl
@[simp] theorem State.setI_pc (s : State) (v : Word) : (s.setI v).pc = s.pc := rfl
@[simp] theorem State.setI_I (s : State) (v : Word) : (s.setI v).I = v := rfl
@[simp] theorem State.setI_sp (s : State) (v : Word) : (s.setI v).sp = s.sp := rfl
@[simp] theorem State.setI_stack (s : State) (v : Word) : (s.setI v).stack = s.stack := rfl
@[simp] theorem State.setI_DT (s : State) (v : Word) : (s.setI v).DT = s.DT := rfl
@[simp] theorem State.setI_ST (s : State) (v : Word) : (s.setI v).ST = s.ST := rfl
@[simp] theorem State.setI_key (s : State) (v : Word) : (s.setI v).key = s.key := rfl
@[simp] theorem State.setI_wait (s : State) (v : Word) : (s.setI v).wait = s.wait := rfl
@[simp] theorem State.setI_fault (s : State) (v : Word) : (s.setI v).fault = s.fault := rfl
@[simp] theorem State.setI_fb (s : State) (v : Word) : (s.setI v).fb = s.fb := rfl
@[simp] theorem State.setI_mem (s : State) (v : Word) : (s.setI v).mem = s.mem := rfl
@[simp] theorem State.setI_result (s : State) (v : Word) : (s.setI v).result = s.result := rfl
@[simp] theorem State.setI_draws (s : State) (v : Word) : (s.setI v).draws = s.draws := rfl
@[simp] theorem State.setI_reg (s : State) (v : Word) (j : Nibble) : (s.setI v).reg j = s.reg j := rfl

/-! ### setDT -/

@[simp] theorem State.setDT_V (s : State) (v : Byte) : (s.setDT v).V = s.V := rfl
@[simp] theorem State.setDT_pc (s : State) (v : Byte) : (s.setDT v).pc = s.pc := rfl
@[simp] theorem State.setDT_I (s : State) (v : Byte) : (s.setDT v).I = s.I := rfl
@[simp] theorem State.setDT_sp (s : State) (v : Byte) : (s.setDT v).sp = s.sp := rfl
@[simp] theorem State.setDT_stack (s : State) (v : Byte) : (s.setDT v).stack = s.stack := rfl
@[simp] theorem State.setDT_DT (s : State) (v : Byte) : (s.setDT v).DT = v := rfl
@[simp] theorem State.setDT_ST (s : State) (v : Byte) : (s.setDT v).ST = s.ST := rfl
@[simp] theorem State.setDT_key (s : State) (v : Byte) : (s.setDT v).key = s.key := rfl
@[simp] theorem State.setDT_wait (s : State) (v : Byte) : (s.setDT v).wait = s.wait := rfl
@[simp] theorem State.setDT_fault (s : State) (v : Byte) : (s.setDT v).fault = s.fault := rfl
@[simp] theorem State.setDT_fb (s : State) (v : Byte) : (s.setDT v).fb = s.fb := rfl
@[simp] theorem State.setDT_mem (s : State) (v : Byte) : (s.setDT v).mem = s.mem := rfl
@[simp] theorem State.setDT_result (s : State) (v : Byte) : (s.setDT v).result = s.result := rfl
@[simp] theorem State.setDT_draws (s : State) (v : Byte) : (s.setDT v).draws = s.draws := rfl
@[simp] theorem State.setDT_reg (s : State) (v : Byte) (j : Nibble) : (s.setDT v).reg j = s.reg j := rfl

/-! ### setST -/

@[simp] theorem State.setST_V (s : State) (v : Byte) : (s.setST v).V = s.V := rfl
@[simp] theorem State.setST_pc (s : State) (v : Byte) : (s.setST v).pc = s.pc := rfl
@[simp] theorem State.setST_I (s : State) (v : Byte) : (s.setST v).I = s.I := rfl
@[simp] theorem State.setST_sp (s : State) (v : Byte) : (s.setST v).sp = s.sp := rfl
@[simp] theorem State.setST_stack (s : State) (v : Byte) : (s.setST v).stack = s.stack := rfl
@[simp] theorem State.setST_DT (s : State) (v : Byte) : (s.setST v).DT = s.DT := rfl
@[simp] theorem State.setST_ST (s : State) (v : Byte) : (s.setST v).ST = v := rfl
@[simp] theorem State.setST_key (s : State) (v : Byte) : (s.setST v).key = s.key := rfl
@[simp] theorem State.setST_wait (s : State) (v : Byte) : (s.setST v).wait = s.wait := rfl
@[simp] theorem State.setST_fault (s : State) (v : Byte) : (s.setST v).fault = s.fault := rfl
@[simp] theorem State.setST_fb (s : State) (v : Byte) : (s.setST v).fb = s.fb := rfl
@[simp] theorem State.setST_mem (s : State) (v : Byte) : (s.setST v).mem = s.mem := rfl
@[simp] theorem State.setST_result (s : State) (v : Byte) : (s.setST v).result = s.result := rfl
@[simp] theorem State.setST_draws (s : State) (v : Byte) : (s.setST v).draws = s.draws := rfl
@[simp] theorem State.setST_reg (s : State) (v : Byte) (j : Nibble) : (s.setST v).reg j = s.reg j := rfl

/-! ### setMem -/

@[simp] theorem State.setMem_V (s : State) (m : Memory) : (s.setMem m).V = s.V := rfl
@[simp] theorem State.setMem_pc (s : State) (m : Memory) : (s.setMem m).pc = s.pc := rfl
@[simp] theorem State.setMem_I (s : State) (m : Memory) : (s.setMem m).I = s.I := rfl
@[simp] theorem State.setMem_sp (s : State) (m : Memory) : (s.setMem m).sp = s.sp := rfl
@[simp] theorem State.setMem_stack (s : State) (m : Memory) : (s.setMem m).stack = s.stack := rfl
@[simp] theorem State.setMem_DT (s : State) (m : Memory) : (s.setMem m).DT = s.DT := rfl
@[simp] theorem State.setMem_ST (s : State) (m : Memory) : (s.setMem m).ST = s.ST := rfl
@[simp] theorem State.setMem_key (s : State) (m : Memory) : (s.setMem m).key = s.key := rfl
@[simp] theorem State.setMem_wait (s : State) (m : Memory) : (s.setMem m).wait = s.wait := rfl
@[simp] theorem State.setMem_fault (s : State) (m : Memory) : (s.setMem m).fault = s.fault := rfl
@[simp] theorem State.setMem_fb (s : State) (m : Memory) : (s.setMem m).fb = s.fb := rfl
@[simp] theorem State.setMem_mem (s : State) (m : Memory) : (s.setMem m).mem = m := rfl
@[simp] theorem State.setMem_result (s : State) (m : Memory) : (s.setMem m).result = s.result := rfl
@[simp] theorem State.setMem_draws (s : State) (m : Memory) : (s.setMem m).draws = s.draws := rfl
@[simp] theorem State.setMem_reg (s : State) (m : Memory) (j : Nibble) : (s.setMem m).reg j = s.reg j := rfl

/-! ### setFb -/

@[simp] theorem State.setFb_V (s : State) (f : Frame) : (s.setFb f).V = s.V := rfl
@[simp] theorem State.setFb_pc (s : State) (f : Frame) : (s.setFb f).pc = s.pc := rfl
@[simp] theorem State.setFb_I (s : State) (f : Frame) : (s.setFb f).I = s.I := rfl
@[simp] theorem State.setFb_sp (s : State) (f : Frame) : (s.setFb f).sp = s.sp := rfl
@[simp] theorem State.setFb_stack (s : State) (f : Frame) : (s.setFb f).stack = s.stack := rfl
@[simp] theorem State.setFb_DT (s : State) (f : Frame) : (s.setFb f).DT = s.DT := rfl
@[simp] theorem State.setFb_ST (s : State) (f : Frame) : (s.setFb f).ST = s.ST := rfl
@[simp] theorem State.setFb_key (s : State) (f : Frame) : (s.setFb f).key = s.key := rfl
@[simp] theorem State.setFb_wait (s : State) (f : Frame) : (s.setFb f).wait = s.wait := rfl
@[simp] theorem State.setFb_fault (s : State) (f : Frame) : (s.setFb f).fault = s.fault := rfl
@[simp] theorem State.setFb_fb (s : State) (f : Frame) : (s.setFb f).fb = f := rfl
@[simp] theorem State.setFb_mem (s : State) (f : Frame) : (s.setFb f).mem = s.mem := rfl
@[simp] theorem State.setFb_result (s : State) (f : Frame) : (s.setFb f).result = s.result := rfl
@[simp] theorem State.setFb_draws (s : State) (f : Frame) : (s.setFb f).draws = s.draws := rfl
@[simp] theorem State.setFb_reg (s : State) (f : Frame) (j : Nibble) : (s.setFb f).reg j = s.reg j := rfl

/-! ### countDraw -/

@[simp] theorem State.countDraw_V (s : State) : s.countDraw.V = s.V := rfl
@[simp] theorem State.countDraw_pc (s : State) : s.countDraw.pc = s.pc := rfl
@[simp] theorem State.countDraw_I (s : State) : s.countDraw.I = s.I := rfl
@[simp] theorem State.countDraw_sp (s : State) : s.countDraw.sp = s.sp := rfl
@[simp] theorem State.countDraw_stack (s : State) : s.countDraw.stack = s.stack := rfl
@[simp] theorem State.countDraw_DT (s : State) : s.countDraw.DT = s.DT := rfl
@[simp] theorem State.countDraw_ST (s : State) : s.countDraw.ST = s.ST := rfl
@[simp] theorem State.countDraw_key (s : State) : s.countDraw.key = s.key := rfl
@[simp] theorem State.countDraw_wait (s : State) : s.countDraw.wait = s.wait := rfl
@[simp] theorem State.countDraw_fault (s : State) : s.countDraw.fault = s.fault := rfl
@[simp] theorem State.countDraw_fb (s : State) : s.countDraw.fb = s.fb := rfl
@[simp] theorem State.countDraw_mem (s : State) : s.countDraw.mem = s.mem := rfl
@[simp] theorem State.countDraw_result (s : State) : s.countDraw.result = s.result := rfl
@[simp] theorem State.countDraw_draws (s : State) : s.countDraw.draws = s.draws + 1 := rfl
@[simp] theorem State.countDraw_reg (s : State) (j : Nibble) : s.countDraw.reg j = s.reg j := rfl

/-! ### advance -/

@[simp] theorem State.advance_V (s : State) : s.advance.V = s.V := rfl
@[simp] theorem State.advance_pc (s : State) : s.advance.pc = s.pc + 2#16 := rfl
@[simp] theorem State.advance_I (s : State) : s.advance.I = s.I := rfl
@[simp] theorem State.advance_sp (s : State) : s.advance.sp = s.sp := rfl
@[simp] theorem State.advance_stack (s : State) : s.advance.stack = s.stack := rfl
@[simp] theorem State.advance_DT (s : State) : s.advance.DT = s.DT := rfl
@[simp] theorem State.advance_ST (s : State) : s.advance.ST = s.ST := rfl
@[simp] theorem State.advance_key (s : State) : s.advance.key = s.key := rfl
@[simp] theorem State.advance_wait (s : State) : s.advance.wait = none := rfl
@[simp] theorem State.advance_fault (s : State) : s.advance.fault = s.fault := rfl
@[simp] theorem State.advance_fb (s : State) : s.advance.fb = s.fb := rfl
@[simp] theorem State.advance_mem (s : State) : s.advance.mem = s.mem := rfl
@[simp] theorem State.advance_result (s : State) : s.advance.result = some .cont := rfl
@[simp] theorem State.advance_draws (s : State) : s.advance.draws = s.draws := rfl
@[simp] theorem State.advance_reg (s : State) (j : Nibble) : s.advance.reg j = s.reg j := rfl

/-! ### skipNext -/

@[simp] theorem State.skipNext_V (s : State) : s.skipNext.V = s.V := rfl
@[simp] theorem State.skipNext_pc (s : State) : s.skipNext.pc = s.pc + 2#16 := rfl
@[simp] theorem State.skipNext_I (s : State) : s.skipNext.I = s.I := rfl
@[simp] theorem State.skipNext_sp (s : State) : s.skipNext.sp = s.sp := rfl
@[simp] theorem State.skipNext_stack (s : State) : s.skipNext.stack = s.stack := rfl
@[simp] theorem State.skipNext_DT (s : State) : s.skipNext.DT = s.DT := rfl
@[simp] theorem State.skipNext_ST (s : State) : s.skipNext.ST = s.ST := rfl
@[simp] theorem State.skipNext_key (s : State) : s.skipNext.key = s.key := rfl
@[simp] theorem State.skipNext_wait (s : State) : s.skipNext.wait = s.wait := rfl
@[simp] theorem State.skipNext_fault (s : State) : s.skipNext.fault = s.fault := rfl
@[simp] theorem State.skipNext_fb (s : State) : s.skipNext.fb = s.fb := rfl
@[simp] theorem State.skipNext_mem (s : State) : s.skipNext.mem = s.mem := rfl
@[simp] theorem State.skipNext_result (s : State) : s.skipNext.result = s.result := rfl
@[simp] theorem State.skipNext_draws (s : State) : s.skipNext.draws = s.draws := rfl
@[simp] theorem State.skipNext_reg (s : State) (j : Nibble) : s.skipNext.reg j = s.reg j := rfl

/-! ### halt -/

@[simp] theorem State.halt_V (s : State) : s.halt.V = s.V := rfl
@[simp] theorem State.halt_pc (s : State) : s.halt.pc = s.pc := rfl
@[simp] theorem State.halt_I (s : State) : s.halt.I = s.I := rfl
@[simp] theorem State.halt_sp (s : State) : s.halt.sp = s.sp := rfl
@[simp] theorem State.halt_stack (s : State) : s.halt.stack = s.stack := rfl
@[simp] theorem State.halt_DT (s : State) : s.halt.DT = s.DT := rfl
@[simp] theorem State.halt_ST (s : State) : s.halt.ST = s.ST := rfl
@[simp] theorem State.halt_key (s : State) : s.halt.key = s.key := rfl
@[simp] theorem State.halt_wait (s : State) : s.halt.wait = s.wait := rfl
@[simp] theorem State.halt_fault (s : State) : s.halt.fault = s.fault := rfl
@[simp] theorem State.halt_fb (s : State) : s.halt.fb = s.fb := rfl
@[simp] theorem State.halt_mem (s : State) : s.halt.mem = s.mem := rfl
@[simp] theorem State.halt_result (s : State) : s.halt.result = some .halted := rfl
@[simp] theorem State.halt_draws (s : State) : s.halt.draws = s.draws := rfl
@[simp] theorem State.halt_reg (s : State) (j : Nibble) : s.halt.reg j = s.reg j := rfl

/-! ### awaitKey -/

@[simp] theorem State.awaitKey_V (s : State) (x : Nibble) : (s.awaitKey x).V = s.V := rfl
@[simp] theorem State.awaitKey_pc (s : State) (x : Nibble) : (s.awaitKey x).pc = s.pc := rfl
@[simp] theorem State.awaitKey_I (s : State) (x : Nibble) : (s.awaitKey x).I = s.I := rfl
@[simp] theorem State.awaitKey_sp (s : State) (x : Nibble) : (s.awaitKey x).sp = s.sp := rfl
@[simp] theorem State.awaitKey_stack (s : State) (x : Nibble) : (s.awaitKey x).stack = s.stack := rfl
@[simp] theorem State.awaitKey_DT (s : State) (x : Nibble) : (s.awaitKey x).DT = s.DT := rfl
@[simp] theorem State.awaitKey_ST (s : State) (x : Nibble) : (s.awaitKey x).ST = s.ST := rfl
@[simp] theorem State.awaitKey_key (s : State) (x : Nibble) : (s.awaitKey x).key = s.key := rfl
@[simp] theorem State.awaitKey_wait (s : State) (x : Nibble) : (s.awaitKey x).wait = some x := rfl
@[simp] theorem State.awaitKey_fault (s : State) (x : Nibble) : (s.awaitKey x).fault = s.fault := rfl
@[simp] theorem State.awaitKey_fb (s : State) (x : Nibble) : (s.awaitKey x).fb = s.fb := rfl
@[simp] theorem State.awaitKey_mem (s : State) (x : Nibble) : (s.awaitKey x).mem = s.mem := rfl
@[simp] theorem State.awaitKey_result (s : State) (x : Nibble) : (s.awaitKey x).result = some .awaitingInput := rfl
@[simp] theorem State.awaitKey_draws (s : State) (x : Nibble) : (s.awaitKey x).draws = s.draws := rfl
@[simp] theorem State.awaitKey_reg (s : State) (x : Nibble) (j : Nibble) : (s.awaitKey x).reg j = s.reg j := rfl

/-! ### takeFault -/

@[simp] theorem State.takeFault_V (s : State) (k : Fault) (w : Option Word) : (s.takeFault k w).V = s.V := rfl
@[simp] theorem State.takeFault_pc (s : State) (k : Fault) (w : Option Word) : (s.takeFault k w).pc = s.pc := rfl
@[simp] theorem State.takeFault_I (s : State) (k : Fault) (w : Option Word) : (s.takeFault k w).I = s.I := rfl
@[simp] theorem State.takeFault_sp (s : State) (k : Fault) (w : Option Word) : (s.takeFault k w).sp = s.sp := rfl
@[simp] theorem State.takeFault_stack (s : State) (k : Fault) (w : Option Word) : (s.takeFault k w).stack = s.stack := rfl
@[simp] theorem State.takeFault_DT (s : State) (k : Fault) (w : Option Word) : (s.takeFault k w).DT = s.DT := rfl
@[simp] theorem State.takeFault_ST (s : State) (k : Fault) (w : Option Word) : (s.takeFault k w).ST = s.ST := rfl
@[simp] theorem State.takeFault_key (s : State) (k : Fault) (w : Option Word) : (s.takeFault k w).key = s.key := rfl
@[simp] theorem State.takeFault_wait (s : State) (k : Fault) (w : Option Word) : (s.takeFault k w).wait = s.wait := rfl
@[simp] theorem State.takeFault_fault (s : State) (k : Fault) (w : Option Word) : (s.takeFault k w).fault = some ⟨k, s.pc, w⟩ := rfl
@[simp] theorem State.takeFault_fb (s : State) (k : Fault) (w : Option Word) : (s.takeFault k w).fb = s.fb := rfl
@[simp] theorem State.takeFault_mem (s : State) (k : Fault) (w : Option Word) : (s.takeFault k w).mem = s.mem := rfl
@[simp] theorem State.takeFault_result (s : State) (k : Fault) (w : Option Word) : (s.takeFault k w).result = some (.fault k) := rfl
@[simp] theorem State.takeFault_draws (s : State) (k : Fault) (w : Option Word) : (s.takeFault k w).draws = s.draws := rfl
@[simp] theorem State.takeFault_reg (s : State) (k : Fault) (w : Option Word) (j : Nibble) : (s.takeFault k w).reg j = s.reg j := rfl

/-! ### push -/

@[simp] theorem State.push_V (s : State) (v : Word) : (s.push v).V = s.V := rfl
@[simp] theorem State.push_pc (s : State) (v : Word) : (s.push v).pc = s.pc := rfl
@[simp] theorem State.push_I (s : State) (v : Word) : (s.push v).I = s.I := rfl
@[simp] theorem State.push_sp (s : State) (v : Word) : (s.push v).sp = s.sp + 1#8 := rfl
@[simp] theorem State.push_stack (s : State) (v : Word) : (s.push v).stack = s.stack.setIfInBounds s.sp.toNat v := rfl
@[simp] theorem State.push_DT (s : State) (v : Word) : (s.push v).DT = s.DT := rfl
@[simp] theorem State.push_ST (s : State) (v : Word) : (s.push v).ST = s.ST := rfl
@[simp] theorem State.push_key (s : State) (v : Word) : (s.push v).key = s.key := rfl
@[simp] theorem State.push_wait (s : State) (v : Word) : (s.push v).wait = s.wait := rfl
@[simp] theorem State.push_fault (s : State) (v : Word) : (s.push v).fault = s.fault := rfl
@[simp] theorem State.push_fb (s : State) (v : Word) : (s.push v).fb = s.fb := rfl
@[simp] theorem State.push_mem (s : State) (v : Word) : (s.push v).mem = s.mem := rfl
@[simp] theorem State.push_result (s : State) (v : Word) : (s.push v).result = s.result := rfl
@[simp] theorem State.push_draws (s : State) (v : Word) : (s.push v).draws = s.draws := rfl
@[simp] theorem State.push_reg (s : State) (v : Word) (j : Nibble) : (s.push v).reg j = s.reg j := rfl

/-! ### dropTop -/

@[simp] theorem State.dropTop_V (s : State) : s.dropTop.V = s.V := rfl
@[simp] theorem State.dropTop_pc (s : State) : s.dropTop.pc = s.pc := rfl
@[simp] theorem State.dropTop_I (s : State) : s.dropTop.I = s.I := rfl
@[simp] theorem State.dropTop_sp (s : State) : s.dropTop.sp = s.sp - 1#8 := rfl
@[simp] theorem State.dropTop_stack (s : State) : s.dropTop.stack = s.stack := rfl
@[simp] theorem State.dropTop_DT (s : State) : s.dropTop.DT = s.DT := rfl
@[simp] theorem State.dropTop_ST (s : State) : s.dropTop.ST = s.ST := rfl
@[simp] theorem State.dropTop_key (s : State) : s.dropTop.key = s.key := rfl
@[simp] theorem State.dropTop_wait (s : State) : s.dropTop.wait = s.wait := rfl
@[simp] theorem State.dropTop_fault (s : State) : s.dropTop.fault = s.fault := rfl
@[simp] theorem State.dropTop_fb (s : State) : s.dropTop.fb = s.fb := rfl
@[simp] theorem State.dropTop_mem (s : State) : s.dropTop.mem = s.mem := rfl
@[simp] theorem State.dropTop_result (s : State) : s.dropTop.result = s.result := rfl
@[simp] theorem State.dropTop_draws (s : State) : s.dropTop.draws = s.draws := rfl
@[simp] theorem State.dropTop_reg (s : State) (j : Nibble) : s.dropTop.reg j = s.reg j := rfl

/-! ### Registers through their accessor -/

/-- A register write is read back in that register and nowhere else. -/
theorem State.reg_setReg (s : State) (x j : Nibble) (v : Byte) :
    (s.setReg x v).reg j = if j = x then v else s.reg j := by
  simp only [State.reg, State.setReg, Vector.getElem_set, BitVec.toNat_inj]
  by_cases h : j = x
  · simp [h]
  · simp [h, Ne.symm h]

@[simp] theorem State.reg_setReg_same (s : State) (x : Nibble) (v : Byte) : (s.setReg x v).reg x = v := by
  simp [State.reg_setReg]

theorem State.reg_setReg_of_ne (s : State) {x j : Nibble} (v : Byte) (h : j ≠ x) :
    (s.setReg x v).reg j = s.reg j := by
  simp [State.reg_setReg, h]

/-- Registers agree when every accessor does. -/
theorem State.V_ext {s t : State} (h : ∀ j, t.reg j = s.reg j) : t.V = s.V := by
  refine Vector.ext fun i hi => ?_
  have := h (BitVec.ofNat 4 i)
  simpa [State.reg, Nat.mod_eq_of_lt hi] using this

end Sys2Proof.Machine
end

