-- ==== Sys2Proof/Laws/Ops.lean ====
section
/-! SUPPORT. One lemma per shared operation that says everything it does; later proofs cite these and do not unfold. -/

namespace Sys2Proof.Machine

/-! ### Flag writes (41_alu.md rule R130) -/

theorem State.reg_setVF (s : State) (b : Bool) (j : Nibble) :
    (s.setVF b).reg j = if j = 0xF#4 then flagByte b else s.reg j := by
  simp [State.setVF, regVF, State.reg_setReg]

/-- The flag is what VF holds afterwards, whatever the destination. -/
theorem State.reg_writeWithFlag (s : State) (x j : Nibble) (r : Byte) (b : Bool) :
    (s.writeWithFlag x r b).reg j = if j = 0xF#4 then flagByte b else if j = x then r else s.reg j := by
  simp [State.writeWithFlag, State.reg_setVF, State.reg_setReg]

/-! A flagged write changes the registers only. -/

@[simp] theorem State.setVF_pc (s : State) (b : Bool) : (s.setVF b).pc = s.pc := rfl
@[simp] theorem State.setVF_I (s : State) (b : Bool) : (s.setVF b).I = s.I := rfl
@[simp] theorem State.setVF_sp (s : State) (b : Bool) : (s.setVF b).sp = s.sp := rfl
@[simp] theorem State.setVF_stack (s : State) (b : Bool) : (s.setVF b).stack = s.stack := rfl
@[simp] theorem State.setVF_DT (s : State) (b : Bool) : (s.setVF b).DT = s.DT := rfl
@[simp] theorem State.setVF_ST (s : State) (b : Bool) : (s.setVF b).ST = s.ST := rfl
@[simp] theorem State.setVF_key (s : State) (b : Bool) : (s.setVF b).key = s.key := rfl
@[simp] theorem State.setVF_wait (s : State) (b : Bool) : (s.setVF b).wait = s.wait := rfl
@[simp] theorem State.setVF_fault (s : State) (b : Bool) : (s.setVF b).fault = s.fault := rfl
@[simp] theorem State.setVF_fb (s : State) (b : Bool) : (s.setVF b).fb = s.fb := rfl
@[simp] theorem State.setVF_mem (s : State) (b : Bool) : (s.setVF b).mem = s.mem := rfl
@[simp] theorem State.setVF_result (s : State) (b : Bool) : (s.setVF b).result = s.result := rfl
@[simp] theorem State.setVF_draws (s : State) (b : Bool) : (s.setVF b).draws = s.draws := rfl

@[simp] theorem State.writeWithFlag_pc (s : State) (x : Nibble) (r : Byte) (b : Bool) : (s.writeWithFlag x r b).pc = s.pc := rfl
@[simp] theorem State.writeWithFlag_I (s : State) (x : Nibble) (r : Byte) (b : Bool) : (s.writeWithFlag x r b).I = s.I := rfl
@[simp] theorem State.writeWithFlag_sp (s : State) (x : Nibble) (r : Byte) (b : Bool) : (s.writeWithFlag x r b).sp = s.sp := rfl
@[simp] theorem State.writeWithFlag_stack (s : State) (x : Nibble) (r : Byte) (b : Bool) : (s.writeWithFlag x r b).stack = s.stack := rfl
@[simp] theorem State.writeWithFlag_DT (s : State) (x : Nibble) (r : Byte) (b : Bool) : (s.writeWithFlag x r b).DT = s.DT := rfl
@[simp] theorem State.writeWithFlag_ST (s : State) (x : Nibble) (r : Byte) (b : Bool) : (s.writeWithFlag x r b).ST = s.ST := rfl
@[simp] theorem State.writeWithFlag_key (s : State) (x : Nibble) (r : Byte) (b : Bool) : (s.writeWithFlag x r b).key = s.key := rfl
@[simp] theorem State.writeWithFlag_wait (s : State) (x : Nibble) (r : Byte) (b : Bool) : (s.writeWithFlag x r b).wait = s.wait := rfl
@[simp] theorem State.writeWithFlag_fault (s : State) (x : Nibble) (r : Byte) (b : Bool) : (s.writeWithFlag x r b).fault = s.fault := rfl
@[simp] theorem State.writeWithFlag_fb (s : State) (x : Nibble) (r : Byte) (b : Bool) : (s.writeWithFlag x r b).fb = s.fb := rfl
@[simp] theorem State.writeWithFlag_mem (s : State) (x : Nibble) (r : Byte) (b : Bool) : (s.writeWithFlag x r b).mem = s.mem := rfl
@[simp] theorem State.writeWithFlag_result (s : State) (x : Nibble) (r : Byte) (b : Bool) : (s.writeWithFlag x r b).result = s.result := rfl
@[simp] theorem State.writeWithFlag_draws (s : State) (x : Nibble) (r : Byte) (b : Bool) : (s.writeWithFlag x r b).draws = s.draws := rfl

theorem State.writeLogic_true (s : State) (x : Nibble) (r : Byte) :
    State.writeLogic true s x r = s.writeWithFlag x r false := rfl

theorem State.writeLogic_false (s : State) (x : Nibble) (r : Byte) :
    State.writeLogic false s x r = s.setReg x r := rfl

@[simp] theorem flagByte_toNat (b : Bool) : (flagByte b).toNat = b.toNat := by cases b <;> rfl

theorem carryOut_iff (a b : Byte) : carryOut a b = true ↔ 255 < a.toNat + b.toNat := by simp [carryOut]

theorem noBorrow_iff (a b : Byte) : noBorrow a b = true ↔ b.toNat ≤ a.toNat := by simp [noBorrow]

/-! ### Skips -/

/-- A conditional skip always completes; only the pc tells whether it was taken (40_step_and_control.md rule R115). -/
theorem skipIf_eq (taken : Bool) (s : State) :
    skipIf taken s = .next (if taken then s.advance.skipNext else s.advance) := by
  cases taken <;> rfl

/-! ### The register block (42_index_memory.md rules R162 and R163) -/

@[simp] theorem State.regBlock_length (s : State) (x : Nibble) : (s.regBlock x).length = x.toNat + 1 := by
  have : x.toNat < 16 := x.isLt
  simp [State.regBlock]
  omega

/-- The i-th byte of the block is V[i]. -/
theorem State.regBlock_getD (s : State) (x j : Nibble) (h : j.toNat ≤ x.toNat) :
    (s.regBlock x).getD j.toNat 0#8 = s.reg j := by
  have hj : j.toNat < 16 := j.isLt
  simp [State.regBlock, State.reg, List.getD_eq_getElem?_getD, Nat.lt_succ_of_le h, hj]

theorem foldl_setReg_eq (f : Nat → Byte) (l : List Nat) (s : State) :
    l.foldl (fun t i => t.setReg (BitVec.ofNat 4 i) (f i)) s =
      { s with V := (l.foldl (fun t i => t.setReg (BitVec.ofNat 4 i) (f i)) s).V } := by
  induction l generalizing s with
  | nil => rfl
  | cons i l ih => rw [List.foldl_cons, ih]; rfl

/-- A block load changes the registers only. -/
theorem State.loadBlock_eq (s : State) (x : Nibble) : s.loadBlock x = { s with V := (s.loadBlock x).V } :=
  foldl_setReg_eq _ _ s

/-! A block load changes the registers only. -/

@[simp] theorem State.loadBlock_pc (s : State) (x : Nibble) : (s.loadBlock x).pc = s.pc := by rw [State.loadBlock_eq]
@[simp] theorem State.loadBlock_I (s : State) (x : Nibble) : (s.loadBlock x).I = s.I := by rw [State.loadBlock_eq]
@[simp] theorem State.loadBlock_sp (s : State) (x : Nibble) : (s.loadBlock x).sp = s.sp := by rw [State.loadBlock_eq]
@[simp] theorem State.loadBlock_stack (s : State) (x : Nibble) : (s.loadBlock x).stack = s.stack := by rw [State.loadBlock_eq]
@[simp] theorem State.loadBlock_DT (s : State) (x : Nibble) : (s.loadBlock x).DT = s.DT := by rw [State.loadBlock_eq]
@[simp] theorem State.loadBlock_ST (s : State) (x : Nibble) : (s.loadBlock x).ST = s.ST := by rw [State.loadBlock_eq]
@[simp] theorem State.loadBlock_key (s : State) (x : Nibble) : (s.loadBlock x).key = s.key := by rw [State.loadBlock_eq]
@[simp] theorem State.loadBlock_wait (s : State) (x : Nibble) : (s.loadBlock x).wait = s.wait := by rw [State.loadBlock_eq]
@[simp] theorem State.loadBlock_fault (s : State) (x : Nibble) : (s.loadBlock x).fault = s.fault := by rw [State.loadBlock_eq]
@[simp] theorem State.loadBlock_fb (s : State) (x : Nibble) : (s.loadBlock x).fb = s.fb := by rw [State.loadBlock_eq]
@[simp] theorem State.loadBlock_mem (s : State) (x : Nibble) : (s.loadBlock x).mem = s.mem := by rw [State.loadBlock_eq]
@[simp] theorem State.loadBlock_result (s : State) (x : Nibble) : (s.loadBlock x).result = s.result := by rw [State.loadBlock_eq]
@[simp] theorem State.loadBlock_draws (s : State) (x : Nibble) : (s.loadBlock x).draws = s.draws := by rw [State.loadBlock_eq]

/-- V[0]..V[x] come from memory, the other registers stay (42_index_memory.md rule R163). -/
theorem State.reg_loadBlock (s : State) (x j : Nibble) :
    (s.loadBlock x).reg j = if j.toNat ≤ x.toNat then s.mem.read (s.I.toNat + j.toNat) else s.reg j := by
  have key : ∀ n, n ≤ 16 →
      ((List.range n).foldl (fun t i => t.setReg (BitVec.ofNat 4 i) (Memory.read s.mem (indexAddr s i))) s).reg j =
        if j.toNat < n then s.mem.read (s.I.toNat + j.toNat) else s.reg j := by
    intro n
    induction n with
    | zero => intro _; simp
    | succ n ih =>
      intro hn
      have hj : j = BitVec.ofNat 4 n ↔ j.toNat = n := by
        rw [← BitVec.toNat_inj]
        simp [Nat.mod_eq_of_lt (show n < 16 by omega)]
      rw [List.range_succ, List.foldl_append]
      simp only [List.foldl_cons, List.foldl_nil, State.reg_setReg, hj, ih (by omega)]
      by_cases h : j.toNat = n
      · simp [h, indexAddr]
      · have : j.toNat < n + 1 ↔ j.toNat < n := by omega
        simp [h, this]
  have hx : x.toNat < 16 := x.isLt
  rw [State.loadBlock, key _ (by omega)]
  simp

/-! ### The display surface (43_display.md) -/

/-- What flipping one pixel of the surface leaves at every pixel. -/
theorem Frame.pixel_flip (f : Frame) (Y X Y' X' : Nat) (hY : Y < 32) (hX : X < 64) :
    Frame.pixel (Frame.flip f Y X) Y' X' = if Y' = Y ∧ X' = X then !Frame.pixel f Y X else Frame.pixel f Y' X' := by
  unfold Frame.pixel Frame.flip
  by_cases h : Y' = Y
  · subst h
    simp only [Vector.getElem?_setIfInBounds, hY, if_true, Option.getD_some, BitVec.getLsbD_xor,
      BitVec.getLsbD_shiftLeft, BitVec.getLsbD_one, true_and]
    by_cases h' : X' = X
    · subst h'
      simp [hX]
    · have : ¬(X ≤ X' ∧ X' - X = 0) := by omega
      by_cases h1 : X' < X <;> by_cases h2 : X' < 64 <;> simp_all
  · simp [h, Ne.symm h]

/-- Surfaces are equal when every pixel of the 32 rows and 64 columns is. -/
theorem Frame.ext_pixel {f g : Frame} (h : ∀ Y X, Y < 32 → X < 64 → Frame.pixel f Y X = Frame.pixel g Y X) :
    f = g := by
  refine Vector.ext fun Y hY => BitVec.eq_of_getLsbD_eq fun X hX => ?_
  have := h Y X hY hX
  simpa [Frame.pixel, hY] using this

@[simp] theorem Frame.pixel_clear (Y X : Nat) : Frame.pixel Frame.clear Y X = false := by
  by_cases h : Y < 32 <;> simp [Frame.pixel, Frame.clear, h]

/-- One flip: the pixel changes, and the collision flag also records a set pixel going unset. -/
theorem flipNoting_spec (d : Drawing) (Y X : Nat) :
    (flipNoting d Y X).fb = Frame.flip d.fb Y X ∧
      (flipNoting d Y X).collided = (d.collided || Frame.pixel d.fb Y X) := ⟨rfl, rfl⟩

/-! ### Keys -/

theorem State.mem_pressed (s : State) (k : Nat) : k ∈ s.pressed ↔ k < 16 ∧ s.keyDown k = true := by
  simp [State.pressed]

/-- A drawn key is one of those pressed (44_input_timers.md rule R203). -/
theorem drawKeyFrom_mem {keys : List Nat} (h : keys ≠ []) (n : Nat) : drawKeyFrom keys n ∈ keys := by
  have hl : n % keys.length < keys.length := Nat.mod_lt _ (List.length_pos_iff.mpr h)
  simp [drawKeyFrom, List.getD_eq_getElem?_getD, hl]

/-! ### Addresses -/

theorem indexInBounds_iff (s : State) (last : Nat) : indexInBounds s last = true ↔ s.I.toNat + last < 4096 := by
  exact decide_eq_true_iff

@[simp] theorem addrOf_toNat (nnn : Addr12) : (addrOf nnn).toNat = nnn.toNat := by
  have := nnn.isLt
  simp [addrOf]
  omega

@[simp] theorem zextByte_toNat (b : Byte) : (zextByte b).toNat = b.toNat := by
  have := b.isLt
  simp [zextByte]
  omega

@[simp] theorem bcdDigits_length (v : Byte) : (bcdDigits v).length = 3 := rfl

@[simp] theorem readBlock_length (m : Memory) (a n : Nat) : (m.readBlock a n).length = n := by
  simp [Memory.readBlock]

theorem readBlock_getD (m : Memory) (a n i : Nat) (h : i < n) : (m.readBlock a n).getD i 0#8 = m.read (a + i) := by
  simp [Memory.readBlock, List.getD_eq_getElem?_getD, h]

/-- The fetch depends on the pc and the memory alone (20_memory.md rule R63). -/
theorem fetchWord_congr {s t : State} (hp : t.pc = s.pc) (hm : t.mem = s.mem) : fetchWord t = fetchWord s := by
  simp [fetchWord, hp, hm]

end Sys2Proof.Machine
end

