-- ==== Sys2Proof/Laws/Display.lean ====
section
/-! SUPPORT. What drawing a sprite does to every pixel and to the collision flag. -/

namespace Sys2Proof.Machine

/-- The pixel a 1 bit at row Y, column X lands on under the edge policy, if any (43_display.md rule R183). -/
def landing (edge : SpriteEdge) (Y X : Nat) : Option (Nat × Nat) :=
  match edge with
  | .wrap => some (Y % 32, X % 64)
  | .clip => if X < 64 ∧ Y < 32 then some (Y, X) else none

/-- `plot` flips the pixel its bit lands on and no other. -/
theorem pixel_plot (edge d Y X Y' X') : Frame.pixel (plot edge d Y X).fb Y' X' =
    (Frame.pixel d.fb Y' X' ^^ decide (landing edge Y X = some (Y', X'))) := by
  cases edge
  · simp only [plot, flipNoting, landing, Config.dispH, Config.dispW]
    rw [Frame.pixel_flip _ _ _ _ _ (Nat.mod_lt _ (by decide)) (Nat.mod_lt _ (by decide))]
    by_cases h : Y' = Y % 32 ∧ X' = X % 64
    · obtain ⟨rfl, rfl⟩ := h; simp
    · have : ¬ (Y % 32 = Y' ∧ X % 64 = X') := by omega
      simp [h, this]
  · simp only [plot, landing, Config.dispH, Config.dispW]
    split
    · next hh =>
      simp only [flipNoting]
      rw [Frame.pixel_flip _ _ _ _ _ hh.2 hh.1]
      by_cases h : Y' = Y ∧ X' = X
      · obtain ⟨rfl, rfl⟩ := h; simp
      · have : ¬ (Y = Y' ∧ X = X') := by omega
        simp [h, this]
    · simp
/-- `plot` collides when the pixel its bit lands on was set. -/
theorem plot_collided (edge d Y X) : (plot edge d Y X).collided =
    (d.collided || match landing edge Y X with | some p => Frame.pixel d.fb p.1 p.2 | none => false) := by
  cases edge
  · simp [plot, flipNoting, landing]
  · simp only [plot, landing, Config.dispH, Config.dispW]; split <;> simp [flipNoting]

/-- One sprite byte, over any list of distinct bit places: the pixels its 1 bits land on are flipped, each once
(43_display.md rule R183), and it collides when one of them was set. -/
theorem foldl_plot_spec (edge) (ox Y : Nat) (b : Byte) (l : List Nat) (hl : l.Nodup) (hk : ∀ k ∈ l, k < 8)
    (d : Drawing) :
   (∀ Y' X', Frame.pixel ((l.foldl (fun d k => if b.getLsbD (7 - k) then plot edge d Y (ox + k) else d) d)).fb Y' X' =
     (Frame.pixel d.fb Y' X' ^^ decide (∃ k ∈ l, b.getLsbD (7-k) = true ∧ landing edge Y (ox + k) = some (Y', X')))) ∧
   ((l.foldl (fun d k => if b.getLsbD (7 - k) then plot edge d Y (ox + k) else d) d)).collided =
     (d.collided || decide (∃ k ∈ l, b.getLsbD (7-k) = true ∧
       ∃ p, landing edge Y (ox + k) = some p ∧ Frame.pixel d.fb p.1 p.2 = true)) := by
  induction l generalizing d with
  | nil => simp
  | cons k l ih =>
    have ⟨hk1, hl'⟩ := List.nodup_cons.mp hl
    have ih' := fun d => ih hl' (fun j hj => hk j (by simp [hj])) d
    simp only [List.foldl_cons]
    by_cases hb : b.getLsbD (7 - k)
    · simp only [hb, if_true]
      obtain ⟨i1, i2⟩ := ih' (plot edge d Y (ox + k))
      have dist : ∀ j ∈ l, landing edge Y (ox + j) = landing edge Y (ox+k) → landing edge Y (ox+k) = none := by
        intro j hj e
        have h1 := hk j (by simp [hj]); have h2 := hk k (by simp)
        have hne : j ≠ k := fun e => hk1 (e ▸ hj)
        cases edge
        · simp [landing] at e; omega
        · simp only [landing] at e ⊢; split at e <;> split at e <;> simp_all
      constructor
      · intro Y' X'
        rw [i1, pixel_plot, Bool.xor_assoc]
        congr 1
        by_cases ht : landing edge Y (ox + k) = some (Y', X')
        · have : ¬ ∃ j ∈ l, b.getLsbD (7-j) = true ∧ landing edge Y (ox + j) = some (Y', X') := by
            rintro ⟨j, hj, _, e⟩; have := dist j hj (e.trans ht.symm); simp [ht] at this
          simp [ht, this, hb]
        · simp [ht, hb]
      · rw [i2, plot_collided, Bool.or_assoc]
        congr 1
        rw [Bool.eq_iff_iff]
        simp only [Bool.or_eq_true, decide_eq_true_eq, List.mem_cons]
        have pp : ∀ j ∈ l, ∀ p, landing edge Y (ox + j) = some p →
            Frame.pixel (plot edge d Y (ox+k)).fb p.1 p.2 = Frame.pixel d.fb p.1 p.2 := by
          intro j hj p hp
          rw [pixel_plot]
          have : landing edge Y (ox + k) ≠ some (p.1, p.2) := by
            intro e; have := dist j hj (hp.trans e.symm); simp [e] at this
          simp [this]
        constructor
        · rintro (h | ⟨j, hj, hb', p, hp, hx⟩)
          · cases ht : landing edge Y (ox + k) with
            | none => simp [ht] at h
            | some p => exact ⟨k, .inl rfl, hb, p, ht, by simpa [ht] using h⟩
          · exact ⟨j, .inr hj, hb', p, hp, by rw [← pp j hj p hp]; exact hx⟩
        · rintro ⟨j, rfl | hj, hb', p, hp, hx⟩
          · left; simp [hp, hx]
          · right; exact ⟨j, hj, hb', p, hp, by rw [pp j hj p hp]; exact hx⟩
    · obtain ⟨i1, i2⟩ := ih' d
      rw [if_neg hb]
      constructor
      · intro Y' X'; rw [i1]; simp [hb]
      · rw [i2]
        congr 1
        rw [decide_eq_decide]
        constructor
        · rintro ⟨j, hj, h⟩
          exact ⟨j, List.mem_cons_of_mem _ hj, h⟩
        · rintro ⟨j, hj, hb', h⟩
          rcases List.mem_cons.mp hj with rfl | hj
          · exact absurd hb' hb
          · exact ⟨j, hj, hb', h⟩

/-- Some 1 bit of the sprite's bytes lands on pixel (X', Y'), the first byte on row Y. -/
def SpriteCovers (edge : SpriteEdge) (ox Y : Nat) (bs : List Byte) (Y' X' : Nat) : Prop :=
  ∃ r k, r < bs.length ∧ k < 8 ∧ (bs.getD r 0#8).getLsbD (7-k) = true ∧ landing edge (Y + r) (ox + k) = some (Y', X')

open Classical in
/-- The whole sprite: no pixel is visited twice, so exactly the covered pixels are flipped, and the collision flag tells whether
one of them was set before (43_display.md rules R182 and R183). -/
theorem drawRows_spec (edge) (ox : Nat) (bs : List Byte) (hn : bs.length ≤ 16) (Y : Nat) (d : Drawing) :
   (∀ Y' X', Frame.pixel (drawRows edge ox Y bs d).fb Y' X' =
     (Frame.pixel d.fb Y' X' ^^ decide (SpriteCovers edge ox Y bs Y' X'))) ∧
   (drawRows edge ox Y bs d).collided =
     (d.collided || decide (∃ Y' X', SpriteCovers edge ox Y bs Y' X' ∧ Frame.pixel d.fb Y' X' = true)) := by
  induction bs generalizing Y d with
  | nil => simp [drawRows, SpriteCovers]
  | cons b bs ih =>
    simp at hn
    obtain ⟨i1, i2⟩ := ih (by omega) (Y+1) (drawRow edge ox Y b d)
    obtain ⟨r1, r2⟩ := foldl_plot_spec edge ox Y b (List.range 8) List.nodup_range (by simp) d
    rw [drawRows]
    have covers_cons : ∀ Y' X', SpriteCovers edge ox Y (b :: bs) Y' X' ↔ (∃ k ∈ List.range 8, b.getLsbD (7-k) = true ∧ landing edge Y (ox + k) = some (Y', X')) ∨ SpriteCovers edge ox (Y+1) bs Y' X' := by
      intro Y' X'
      constructor
      · rintro ⟨r, k, hr, hk, hb, ht⟩
        cases r with
        | zero => exact .inl ⟨k, by simpa using hk, by simpa using hb, by simpa using ht⟩
        | succ r => exact .inr ⟨r, k, by simpa using hr, hk, by simpa using hb, by rw [← ht]; congr 1; omega⟩
      · rintro (⟨k, hk, hb, ht⟩ | ⟨r, k, hr, hk, hb, ht⟩)
        · exact ⟨0, k, by simp, by simpa using hk, by simpa using hb, by simpa using ht⟩
        · exact ⟨r+1, k, by simpa using hr, hk, by simpa using hb, by rw [← ht]; congr 1; omega⟩
    have disj : ∀ Y' X', (∃ k ∈ List.range 8, b.getLsbD (7-k) = true ∧ landing edge Y (ox + k) = some (Y', X')) → ¬ SpriteCovers edge ox (Y+1) bs Y' X' := by
      rintro Y' X' ⟨k, _, _, h1⟩ ⟨r, k', hr, _, _, h2⟩
      cases edge
      · simp [landing] at h1 h2; omega
      · simp only [landing] at h1 h2; split at h1 <;> split at h2 <;> simp_all; omega
    constructor
    · intro Y' X'
      rw [i1, drawRow, r1, Bool.xor_assoc]
      congr 1
      by_cases h1 : (∃ k ∈ List.range 8, b.getLsbD (7-k) = true ∧ landing edge Y (ox + k) = some (Y', X'))
      · have h2 := disj _ _ h1
        have h3 := (covers_cons Y' X').mpr (.inl h1)
        rw [decide_eq_true h1, decide_eq_false h2, decide_eq_true h3]; rfl
      · rw [decide_eq_false h1]; simp only [Bool.false_xor]
        congr 1; rw [eq_iff_iff, covers_cons]; exact ⟨.inr, fun h => h.elim (fun h => absurd h h1) id⟩
    · rw [i2]
      have : (drawRow edge ox Y b d).collided = _ := r2
      rw [this, Bool.or_assoc]; congr 1
      rw [Bool.eq_iff_iff]; simp only [Bool.or_eq_true, decide_eq_true_eq]
      have px : ∀ Y' X', SpriteCovers edge ox (Y+1) bs Y' X' → Frame.pixel (drawRow edge ox Y b d).fb Y' X' = Frame.pixel d.fb Y' X' := by
        intro Y' X' hc
        rw [drawRow, r1]
        have : ¬ _ := fun h => disj Y' X' h hc
        rw [decide_eq_false this]; simp
      constructor
      · rintro (⟨k, hk, hb, p, hp, hx⟩ | ⟨Y', X', hc, hx⟩)
        · exact ⟨p.1, p.2, (covers_cons _ _).mpr (.inl ⟨k, hk, hb, hp⟩), hx⟩
        · exact ⟨Y', X', (covers_cons _ _).mpr (.inr hc), by rw [← px _ _ hc]; exact hx⟩
      · rintro ⟨Y', X', hc, hx⟩
        rcases (covers_cons _ _).mp hc with ⟨k, hk, hb, ht⟩ | hc
        · exact .inl ⟨k, hk, hb, _, ht, hx⟩
        · exact .inr ⟨Y', X', hc, by rw [px _ _ hc]; exact hx⟩

end Sys2Proof.Machine
end

