-- ==== Sys2Proof/Laws/PerInstr.lean ====
section
/-! SUPPORT. Per instruction: its word meets the mask and match columns of its row (30_encoding.md rule R76). -/

namespace Sys2Proof.Laws.RowPattern

/-- The word of `i` is in the row of `i`. -/
def Statement (i : Instr) : Prop := encode i &&& rowMask i = rowMatch i

/-- The masks of the map leave the family and the fixed nibbles. -/
theorem mask_nnn (f : Nibble) (nnn : Addr12) : formatNNN f nnn &&& 0xF000#16 = formatNNN f 0#12 := by
  ext i hi
  interval_cases i <;> simp [formatNNN]

theorem mask_xkk (f x : Nibble) (kk : Byte) : formatXKK f x kk &&& 0xF000#16 = formatXKK f 0#4 0#8 := by
  ext i hi
  interval_cases i <;> simp [formatXKK]

theorem mask_xss (f x : Nibble) (kk : Byte) : formatXKK f x kk &&& 0xF0FF#16 = formatXKK f 0#4 kk := by
  ext i hi
  interval_cases i <;> simp [formatXKK]

theorem mask_xys (f x y n : Nibble) : formatXYN f x y n &&& 0xF00F#16 = formatXYN f 0#4 0#4 n := by
  ext i hi
  interval_cases i <;> simp [formatXYN]

theorem mask_xyn (f x y n : Nibble) : formatXYN f x y n &&& 0xF000#16 = formatXYN f 0#4 0#4 0#4 := by
  ext i hi
  interval_cases i <;> simp [formatXYN]

theorem brk : Statement .brk := by
  simp only [Statement, encode, rowMask, rowMatch]
  exact BitVec.and_allOnes

theorem cls : Statement .cls := rfl

theorem ret : Statement .ret := rfl

theorem jp (nnn : Addr12) : Statement (.jp nnn) := (mask_nnn ..).trans rfl

theorem call (nnn : Addr12) : Statement (.call nnn) := (mask_nnn ..).trans rfl

theorem ldI (nnn : Addr12) : Statement (.ldI nnn) := (mask_nnn ..).trans rfl

theorem jpV0 (nnn : Addr12) : Statement (.jpV0 nnn) := (mask_nnn ..).trans rfl

theorem seImm (x : Nibble) (kk : Byte) : Statement (.seImm x kk) := (mask_xkk ..).trans rfl

theorem sneImm (x : Nibble) (kk : Byte) : Statement (.sneImm x kk) := (mask_xkk ..).trans rfl

theorem ldImm (x : Nibble) (kk : Byte) : Statement (.ldImm x kk) := (mask_xkk ..).trans rfl

theorem addImm (x : Nibble) (kk : Byte) : Statement (.addImm x kk) := (mask_xkk ..).trans rfl

theorem rnd (x : Nibble) (kk : Byte) : Statement (.rnd x kk) := (mask_xkk ..).trans rfl

theorem seReg (x y : Nibble) : Statement (.seReg x y) := (mask_xys ..).trans rfl

theorem ldReg (x y : Nibble) : Statement (.ldReg x y) := (mask_xys ..).trans rfl

theorem orReg (x y : Nibble) : Statement (.orReg x y) := (mask_xys ..).trans rfl

theorem andReg (x y : Nibble) : Statement (.andReg x y) := (mask_xys ..).trans rfl

theorem xorReg (x y : Nibble) : Statement (.xorReg x y) := (mask_xys ..).trans rfl

theorem addReg (x y : Nibble) : Statement (.addReg x y) := (mask_xys ..).trans rfl

theorem subReg (x y : Nibble) : Statement (.subReg x y) := (mask_xys ..).trans rfl

theorem shr (x y : Nibble) : Statement (.shr x y) := (mask_xys ..).trans rfl

theorem subnReg (x y : Nibble) : Statement (.subnReg x y) := (mask_xys ..).trans rfl

theorem shl (x y : Nibble) : Statement (.shl x y) := (mask_xys ..).trans rfl

theorem sneReg (x y : Nibble) : Statement (.sneReg x y) := (mask_xys ..).trans rfl

theorem drw (x y n : Nibble) : Statement (.drw x y n) := (mask_xyn ..).trans rfl

theorem skp (x : Nibble) : Statement (.skp x) := (mask_xss ..).trans rfl

theorem sknp (x : Nibble) : Statement (.sknp x) := (mask_xss ..).trans rfl

theorem ldVxDT (x : Nibble) : Statement (.ldVxDT x) := (mask_xss ..).trans rfl

theorem ldVxK (x : Nibble) : Statement (.ldVxK x) := (mask_xss ..).trans rfl

theorem ldDTVx (x : Nibble) : Statement (.ldDTVx x) := (mask_xss ..).trans rfl

theorem ldSTVx (x : Nibble) : Statement (.ldSTVx x) := (mask_xss ..).trans rfl

theorem addI (x : Nibble) : Statement (.addI x) := (mask_xss ..).trans rfl

theorem ldF (x : Nibble) : Statement (.ldF x) := (mask_xss ..).trans rfl

theorem ldB (x : Nibble) : Statement (.ldB x) := (mask_xss ..).trans rfl

theorem ldMemVx (x : Nibble) : Statement (.ldMemVx x) := (mask_xss ..).trans rfl

theorem ldVxMem (x : Nibble) : Statement (.ldVxMem x) := (mask_xss ..).trans rfl

end Sys2Proof.Laws.RowPattern
end

