-- ==== Sys2Proof/Laws/Step.lean ====
section
/-! SUPPORT. What a step and a meaning can do, said once: the inversions that proofs about every instruction start from. -/

namespace Sys2Proof.Machine

/-- A step that answers a next state, on a machine that is not latched, did one of three things
(40_step_and_control.md rule R100). -/
theorem step_cases {s t : State} (h : step s = .next t) :
    s.fault = none ∧
      ((fetchWord s = none ∧ t = s.takeFault .outOfBounds none) ∨
       (∃ w r, fetchWord s = some w ∧ decodeWord w = .error r ∧ t = s.takeFault .decodeError (some w)) ∨
       (∃ w i, fetchWord s = some w ∧ decodeWord w = .ok i ∧ exec i s = .next t)) := by
  unfold step at h
  split at h
  · cases h
  · next hf =>
    refine ⟨hf, ?_⟩
    split at h
    · next hw => exact .inl ⟨hw, by cases h; rfl⟩
    · next w hw =>
      split at h
      · next i hi => exact .inr (.inr ⟨w, i, hw, hi, h⟩)
      · next r hr => exact .inr (.inl ⟨w, r, hw, hr, by cases h; rfl⟩)

/-- A meaning never stops the machine with a fault outcome: it takes the fault into the latch. -/
theorem exec_ne_fault (i : Instr) (s : State) (k : Fault) : exec i s ≠ .fault k := by
  cases i <;> simp only [exec, ne_eq] <;> intro h
  all_goals
    simp only [execBrk, execCls, execRet, execJp, execCall, execSeImm, execSneImm, execSeReg, execLdImm, execAddImm,
      execLdReg, execOrReg, execAndReg, execXorReg, execAddReg, execSubReg, execShr, execSubnReg, execShl, execSneReg,
      execLdI, execJpV0, execRnd, execDrw, execSkp, execSknp, execLdVxDT, execLdVxK, execLdDTVx, execLdSTVx, execAddI,
      execLdF, execLdB, execLdMemVx, execLdVxMem, skipIf_eq] at h
    first
      | cases h
      | (split at h <;> cases h)
      | (split at h <;> first | cases h | (split at h <;> cases h))

/-- What a completed instruction leaves in the fields no completed instruction writes (40_step_and_control.md rules R100,
R105; 10_state.md rule R32). -/
structure Completed (s t : State) : Prop where
  key : t.key = s.key
  fault : t.fault = s.fault
  wait : t.wait = none
  result : t.result = some .cont ∨ t.result = some .halted

/-- A meaning that answers a next state took a fault of its own, suspended for a key, or completed. -/
theorem exec_cases {i : Instr} {s t : State} (h : exec i s = .next t) :
    (∃ k, t = s.takeFault k (some (encode i))) ∨
    (∃ x, i = .ldVxK x ∧ s.pressed = [] ∧ t = s.awaitKey x) ∨
    Completed s t := by
  cases i
  case ret =>
    simp only [exec, execRet] at h
    split at h
    · cases h; exact .inl ⟨_, rfl⟩
    · split at h
      · cases h; exact .inr (.inr ⟨rfl, rfl, rfl, .inl rfl⟩)
      · cases h
  case ldVxK x =>
    simp only [exec, execLdVxK] at h
    split at h
    · next hp => cases h; exact .inr (.inl ⟨x, rfl, hp, rfl⟩)
    · cases h; exact .inr (.inr ⟨rfl, rfl, rfl, .inl rfl⟩)
  case brk => cases h; exact .inr (.inr ⟨rfl, rfl, rfl, .inr rfl⟩)
  case ldVxMem x =>
    simp only [exec, execLdVxMem] at h
    split at h
    · cases h
      rw [State.loadBlock_eq]
      exact .inr (.inr ⟨rfl, rfl, rfl, .inl rfl⟩)
    · cases h; exact .inl ⟨_, rfl⟩
  all_goals
    simp only [exec, execCls, execJp, execCall, execSeImm, execSneImm, execSeReg, execLdImm, execAddImm,
      execLdReg, execOrReg, execAndReg, execXorReg, execAddReg, execSubReg, execShr, execSubnReg, execShl, execSneReg,
      execLdI, execJpV0, execRnd, execDrw, execSkp, execSknp, execLdVxDT, execLdDTVx, execLdSTVx, execAddI,
      execLdF, execLdB, execLdMemVx, skipIf_eq] at h
    first
      | (cases h; exact .inr (.inr ⟨rfl, rfl, rfl, .inl rfl⟩))
      | (cases h; split <;> exact .inr (.inr ⟨rfl, rfl, rfl, .inl rfl⟩))
      | (split at h
         · cases h
           first
             | exact .inl ⟨_, rfl⟩
             | exact .inr (.inr ⟨rfl, rfl, rfl, .inl rfl⟩)
         · cases h
           first
             | exact .inl ⟨_, rfl⟩
             | exact .inr (.inr ⟨rfl, rfl, rfl, .inl rfl⟩)
             | (split <;> exact .inr (.inr ⟨rfl, rfl, rfl, .inl rfl⟩)))

/-- A fault taken is the statement's `FaultTaken`, field by field. -/
theorem takeFault_faultTaken (s : State) (k : Fault) (w : Option Word) : FaultTaken k w s (s.takeFault k w) :=
  ⟨rfl, rfl, rfl, rfl, rfl, rfl, rfl, rfl, rfl, rfl, rfl, rfl, rfl, rfl⟩

/-- `State.reset` is the reset operation with all launch inputs 0. -/
theorem reset_eq_resetWith_zero : State.reset = State.resetWith Launch.zero 0 := rfl

end Sys2Proof.Machine
end

