-- ==== Sys2Proof/Tests/Slice0.lean ====
section
/-! SUPPORT. Tests: the well-formedness smoke test, a word of every row, one step per instruction with the results of
95_test_vectors.md (named by their ids there), and a witness for each statement with hypotheses. -/

namespace Sys2Proof.Tests

open Sys2Proof Sys2Proof.Machine

/-- Reset with these registers. -/
def regs (l : List (Nibble × Byte)) : State := l.foldl (fun s p => s.setReg p.1 p.2) State.reset

/-- `s` with these bytes at `a`. -/
def bytesAt (a : Nat) (bs : List Byte) (s : State) : State := s.setMem (s.mem.writeBlock a bs)

/-- `s` with the keys of the list pressed. -/
def pressing (ks : List Nat) (s : State) : State := { s with key := Vector.ofFn (fun k => ks.contains k.val) }

/-- The state after one step that executes the word at the pc of `s`, where it answers one. -/
def after (w : Nat) (s : State) : Option State :=
  match step (s.withFetchWord 16 w) with
  | .next t => some t
  | _ => none

/-- Registers, then pc, after one step. -/
def regsAfter (w : Nat) (s : State) (xs : List Nibble) : Option (List Byte × Word) :=
  (after w s).map (fun t => (xs.map t.reg, t.pc))

/-! ### WellFormed -/

theorem test_wf_refuses_draw_of_no_rows : Instr.wf (.drw 1#4 2#4 0#4) = false := by decide
theorem test_wf_takes_draw_of_one_row : Instr.wf (.drw 1#4 2#4 1#4) = true := by decide

/-! ### One word of every row (30_encoding.md rule R76), the operand nibbles all different -/

theorem test_decode_break : decode [hiByte breakWord, loByte breakWord] = .ok (.brk, []) := by
  simp [decode, decodeWord, decodeRow_breakWord]

theorem test_decode_control :
    [0x00E0, 0x00EE, 0x1ABC, 0x2ABC, 0x3ABC, 0x4ABC, 0x5AB0, 0x9AB0, 0xBABC].map (decodeTableWord 16) =
      [some .cls, some .ret, some (.jp 0xABC#12), some (.call 0xABC#12), some (.seImm 0xA#4 0xBC#8),
        some (.sneImm 0xA#4 0xBC#8), some (.seReg 0xA#4 0xB#4), some (.sneReg 0xA#4 0xB#4),
        some (.jpV0 0xABC#12)] := by decide

theorem test_decode_arithmetic :
    [0x6ABC, 0x7ABC, 0x8AB0, 0x8AB1, 0x8AB2, 0x8AB3, 0x8AB4].map (decodeTableWord 16) =
      [some (.ldImm 0xA#4 0xBC#8), some (.addImm 0xA#4 0xBC#8), some (.ldReg 0xA#4 0xB#4),
        some (.orReg 0xA#4 0xB#4), some (.andReg 0xA#4 0xB#4), some (.xorReg 0xA#4 0xB#4),
        some (.addReg 0xA#4 0xB#4)] := by decide

theorem test_decode_subtract_shift_random_draw :
    [0x8AB5, 0x8AB6, 0x8AB7, 0x8ABE, 0xCABC, 0xDABC].map (decodeTableWord 16) =
      [some (.subReg 0xA#4 0xB#4), some (.shr 0xA#4 0xB#4), some (.subnReg 0xA#4 0xB#4), some (.shl 0xA#4 0xB#4),
        some (.rnd 0xA#4 0xBC#8), some (.drw 0xA#4 0xB#4 0xC#4)] := by decide

theorem test_decode_index_keys_timers :
    [0xAABC, 0xEA9E, 0xEAA1, 0xFA07, 0xFA0A, 0xFA15, 0xFA18].map (decodeTableWord 16) =
      [some (.ldI 0xABC#12), some (.skp 0xA#4), some (.sknp 0xA#4), some (.ldVxDT 0xA#4), some (.ldVxK 0xA#4),
        some (.ldDTVx 0xA#4), some (.ldSTVx 0xA#4)] := by decide

theorem test_decode_index_memory :
    [0xFA1E, 0xFA29, 0xFA33, 0xFA55, 0xFA65].map (decodeTableWord 16) =
      [some (.addI 0xA#4), some (.ldF 0xA#4), some (.ldB 0xA#4), some (.ldMemVx 0xA#4), some (.ldVxMem 0xA#4)] := by
  decide

/-- V16, V17 and D7: none of these words is in a row. -/
theorem test_illegal_words :
    [0x0123#16, 0x5121#16, 0x8008#16, 0x800F#16, 0x9121#16, 0xD010#16, 0xE000#16, 0xE19F#16, 0xF000#16,
      0xF1FF#16].map decodeRow = List.replicate 10 none := by decide

theorem test_illegal_word_rejected (h : 0x0123#16 ≠ breakWord) :
    decodeWord 0x0123#16 = .error (.illegal 0x0123#16) := by
  simp [decodeWord, h, show decodeRow 0x0123#16 = none by decide]

theorem test_decode_needs_two_bytes : decode [0x12#8] = .error .short := by decide

/-! ### Control (95_test_vectors.md section 2.1) -/

/-- V1. -/
theorem test_jp : regsAfter 0x1208 State.reset [] = some ([], 0x208#16) := by decide
/-- V3. -/
theorem test_jpV0_unmasked : regsAfter 0xBF80 (regs [(0#4, 0x90#8)]) [] = some ([], 0x1010#16) := by decide
/-- V4. -/
theorem test_call : (after 0x2300 State.reset).map (fun t => (t.stack[0], t.sp, t.pc)) =
    some (0x202#16, 1#8, 0x300#16) := by decide
/-- V7, the 17th step. -/
theorem test_call_overflow : (after 0x2200 { State.reset with sp := 16#8 }).map (fun t => (t.fault, t.sp, t.pc)) =
    some (some ⟨.stackOverflow, 0x200#16, some 0x2200#16⟩, 16#8, 0x200#16) := by decide
/-- V5. -/
theorem test_ret : (after 0x00EE ({ State.reset with pc := 0x300#16 }.push 0x202#16)).map (fun t => (t.sp, t.pc)) =
    some (0#8, 0x202#16) := by decide
/-- V6. -/
theorem test_ret_underflow : (after 0x00EE State.reset).map (fun t => (t.fault, t.result, t.pc)) =
    some (some ⟨.stackUnderflow, 0x200#16, some 0x00EE#16⟩, some (.fault .stackUnderflow), 0x200#16) := by decide
/-- V8: the latched machine answers its fault. -/
theorem test_latched : (match step (State.reset.takeFault .stackOverflow (some 0x2200#16)) with
    | .fault k => some k | _ => none) = some .stackOverflow := by decide
/-- V10 and S9b. -/
theorem test_seImm : regsAfter 0x3F05 (regs [(0xF#4, 5#8)]) [] = some ([], 0x204#16) ∧
    regsAfter 0x3310 (regs [(3#4, 0x11#8)]) [] = some ([], 0x202#16) := by decide
/-- V13. -/
theorem test_sneImm : regsAfter 0x4310 (regs [(3#4, 0x11#8)]) [] = some ([], 0x204#16) := by decide
/-- V11 and V12. -/
theorem test_seReg : regsAfter 0x5120 (regs [(1#4, 7#8), (2#4, 7#8)]) [] = some ([], 0x204#16) ∧
    regsAfter 0x5120 (regs [(1#4, 7#8), (2#4, 8#8)]) [] = some ([], 0x202#16) := by decide
/-- V11 and V12. -/
theorem test_sneReg : regsAfter 0x9120 (regs [(1#4, 7#8), (2#4, 7#8)]) [] = some ([], 0x202#16) ∧
    regsAfter 0x9120 (regs [(1#4, 7#8), (2#4, 8#8)]) [] = some ([], 0x204#16) := by decide
/-- V14 and V15. -/
theorem test_brk : (match exec .brk { State.reset with pc := 0xFFE#16 } with
    | .next t => some (t.result, t.pc, fetchWord t) | _ => none) = some (some .halted, 0x1000#16, none) := by decide
/-- V2, the second step. -/
theorem test_fetch_fault : (match step { State.reset with pc := 0xFFF#16 } with | .next t => some t.fault | _ => none) =
    some (some ⟨.outOfBounds, 0xFFF#16, none⟩) := by decide

/-! ### Arithmetic and logic (95_test_vectors.md sections 1 and 2.2) -/

/-- A1. -/
theorem test_ldImm : regsAfter 0x6A0E State.reset [0xA#4] = some ([0x0E#8], 0x202#16) := by decide
/-- A2 and A3. -/
theorem test_addImm : regsAfter 0x7A01 (regs [(0xA#4, 0xFF#8), (0xF#4, 0xAA#8)]) [0xA#4, 0xF#4] =
    some ([0x00#8, 0xAA#8], 0x202#16) ∧
    regsAfter 0x7F01 (regs [(0xF#4, 0x10#8)]) [0xF#4] = some ([0x11#8], 0x202#16) := by decide
/-- A4. -/
theorem test_ldReg : regsAfter 0x8AE0 (regs [(0xE#4, 3#8)]) [0xA#4] = some ([3#8], 0x202#16) := by decide
/-- A5 and A7. -/
theorem test_or : regsAfter 0x8AE1 (regs [(0xA#4, 0x0E#8), (0xE#4, 3#8), (0xF#4, 0x55#8)]) [0xA#4, 0xF#4] =
    some ([0x0F#8, 0#8], 0x202#16) ∧
    regsAfter 0x8F01 (regs [(0xF#4, 0x0F#8), (0#4, 0xF0#8)]) [0xF#4] = some ([0#8], 0x202#16) := by decide
/-- A7 with LOGIC_CLEARS_VF false. -/
theorem test_or_keeping_flag : (State.writeLogic false State.reset 0xF#4 0xFF#8).reg 0xF#4 = 0xFF#8 := by decide
/-- A6. -/
theorem test_and : regsAfter 0x8AE2 (regs [(0xA#4, 0x0E#8), (0xE#4, 3#8), (0xF#4, 9#8)]) [0xA#4, 0xF#4] =
    some ([2#8, 0#8], 0x202#16) := by decide
/-- A6. -/
theorem test_xor : regsAfter 0x8AE3 (regs [(0xA#4, 0x0E#8), (0xE#4, 3#8), (0xF#4, 9#8)]) [0xA#4, 0xF#4] =
    some ([0x0D#8, 0#8], 0x202#16) := by decide
/-- S2 and A11. -/
theorem test_add : regsAfter 0x8BC4 (regs [(0xB#4, 0xFD#8), (0xC#4, 0xEA#8)]) [0xB#4, 0xF#4] =
    some ([0xE7#8, 1#8], 0x202#16) ∧
    regsAfter 0x8F14 (regs [(0xF#4, 0xFF#8), (1#4, 1#8)]) [0xF#4] = some ([1#8], 0x202#16) := by decide
/-- A13 and A12. -/
theorem test_sub : regsAfter 0x8AE5 (regs [(0xA#4, 3#8), (0xE#4, 0x0E#8)]) [0xA#4, 0xF#4] =
    some ([0xF5#8, 0#8], 0x202#16) ∧
    regsAfter 0x8AE5 (regs [(0xA#4, 0x42#8), (0xE#4, 0x42#8)]) [0xA#4, 0xF#4] = some ([0#8, 1#8], 0x202#16) := by
  decide
/-- S4a and S4b. -/
theorem test_subn : regsAfter 0x8AE7 (regs [(0xA#4, 0x0E#8), (0xE#4, 3#8)]) [0xA#4, 0xF#4] =
    some ([0xF5#8, 0#8], 0x202#16) ∧
    regsAfter 0x8EA7 (regs [(0xA#4, 0x0E#8), (0xE#4, 3#8)]) [0xE#4, 0xF#4] = some ([0x0B#8, 1#8], 0x202#16) := by
  decide
/-- A17. -/
theorem test_shr :
    [ShiftSource.vx, ShiftSource.vy].map (fun c =>
      [0xA#4, 0xE#4, 0xF#4].map (shrFrom c 0xA#4 0xE#4 (regs [(0xA#4, 0x0E#8), (0xE#4, 0xFD#8)])).reg) =
    [[0x07#8, 0xFD#8, 0#8], [0x7E#8, 0xFD#8, 1#8]] := by decide
/-- A18. -/
theorem test_shl :
    [ShiftSource.vx, ShiftSource.vy].map (fun c =>
      [0xA#4, 0xE#4, 0xF#4].map (shlFrom c 0xA#4 0xE#4 (regs [(0xA#4, 0x0E#8), (0xE#4, 0xFD#8)])).reg) =
    [[0x1C#8, 0xFD#8, 0#8], [0xFA#8, 0xFD#8, 1#8]] := by decide
/-- A23: with mask 0 every draw gives 0. -/
theorem test_rnd_masked : (match exec (.rnd 3#4 0#8) (regs [(3#4, 9#8)]) with
    | .next t => some (t.reg 3#4, t.draws) | _ => none) = some (0#8, 1) := by
  simp [exec, execRnd, regs, State.reset]

/-! ### Index register and memory (95_test_vectors.md section 2.3) -/

/-- M1. -/
theorem test_ldI : (after 0xAFFF State.reset).map State.I = some 0x0FFF#16 := by decide
/-- M3 and M4. -/
theorem test_addI : (after 0xF11E { regs [(1#4, 1#8)] with I := 0xFFFF#16 }).map State.I = some 0#16 ∧
    (after 0xF11E { regs [(1#4, 1#8)] with I := 0x0FFF#16 }).map State.I = some 0x1000#16 := by decide
/-- M13 and M14, above FONT_BASE. -/
theorem test_ldF : (after 0xF429 (regs [(4#4, 0x0B#8)])).map State.I = some (BitVec.ofNat 16 (fontBase + 55)) ∧
    (after 0xF429 (regs [(4#4, 0x1A#8)])).map State.I = some (BitVec.ofNat 16 (fontBase + 50)) := ⟨rfl, rfl⟩
/-- M5 shortened to V0..V2 at the top of memory. -/
theorem test_store_registers :
    (after 0xF255 { regs [(0#4, 7#8), (1#4, 8#8), (2#4, 9#8)] with I := 0xFFD#16 }).map
      (fun t => (t.mem.readBlock 0xFFC 4, t.I)) = some ([0#8, 7#8, 8#8, 9#8], 0xFFD#16) := by decide
/-- M6. -/
theorem test_store_out_of_bounds :
    (after 0xFF55 { State.reset with I := 0xFF1#16 }).map (fun t => (t.fault, t.pc)) =
      some (some ⟨.outOfBounds, 0x200#16, some 0xFF55#16⟩, 0x200#16) := by decide
/-- M7. -/
theorem test_load_registers :
    (after 0xF065 (bytesAt 0xFFF [0x5A#8] { State.reset with I := 0xFFF#16 })).map
      (fun t => ([0#4, 1#4].map t.reg, t.I)) = some ([0x5A#8, 0#8], 0xFFF#16) := by decide
/-- M8. -/
theorem test_load_out_of_bounds :
    (after 0xF165 { regs [(0#4, 3#8)] with I := 0xFFF#16 }).map (fun t => (t.fault, t.reg 0#4)) =
      some (some ⟨.outOfBounds, 0x200#16, some 0xF165#16⟩, 3#8) := by decide
/-- S6 and M10. -/
theorem test_bcd :
    (after 0xF533 { regs [(5#4, 0xD9#8)] with I := 0x300#16 }).map (fun t => t.mem.readBlock 0x300 3) =
      some [2#8, 1#8, 7#8] ∧
    (after 0xF033 { regs [(0#4, 0xFF#8)] with I := 0xFFD#16 }).map (fun t => t.mem.readBlock 0xFFD 3) =
      some [2#8, 5#8, 5#8] := by decide
/-- M11. -/
theorem test_bcd_out_of_bounds :
    (after 0xF033 { regs [(0#4, 1#8)] with I := 0xFFE#16 }).map (fun t => (t.fault.isSome, t.mem.read 0xFFE)) =
      some (true, 0#8) := by decide

/-! ### Display (95_test_vectors.md section 2.4) -/

/-- D1. -/
theorem test_cls : (after 0x00E0 { State.reset with fb := Vector.replicate 32 0xFF#64 }).map State.fb =
    some (Vector.replicate 32 0#64) := by decide

/-- The surface with these pixels, (row, column), set. -/
def pixels (l : List (Nat × Nat)) : Frame := l.foldl (fun f p => Frame.flip f p.1 p.2) Frame.clear

/-- D5 with clip and with wrap: glyph 0 at column 62, row 30. -/
theorem test_draw_clip :
    drawSprite .clip (pixels [(0, 1)]) 62#8 30#8 [0xF0#8, 0x90#8, 0x90#8, 0x90#8, 0xF0#8] =
      ⟨pixels [(0, 1), (30, 62), (30, 63), (31, 62)], false⟩ := by decide
/-- D5 with wrap, shortened to three pixels at the corner: (31, 0) was set, so it collides. -/
theorem test_draw_wrap :
    drawSprite .wrap (pixels [(31, 0)]) 63#8 31#8 [0xC0#8, 0x80#8] = ⟨pixels [(31, 63), (0, 63)], true⟩ := by decide
/-- 43_display.md rule R182 by hand: a set pixel drawn twice collides the first time only (log entry 16). -/
theorem test_draw_twice_on_a_set_pixel :
    (drawSprite .wrap (pixels [(0, 0)]) 0#8 0#8 [0x80#8]).collided = true ∧
    (drawSprite .wrap (drawSprite .wrap (pixels [(0, 0)]) 0#8 0#8 [0x80#8]).fb 0#8 0#8 [0x80#8]).collided = false := by
  decide
/-- D6: VF is a coordinate before it is the flag. -/
theorem test_draw_at_flag :
    (fun t : State => (t.fb, t.reg 0xF#4)) (drawFrom .wrap 0xF#4 0#4 1#4 (bytesAt 0x300 [0x80#8]
      { regs [(0xF#4, 3#8), (0#4, 3#8)] with I := 0x300#16 })) = (pixels [(3, 3)], 0#8) := by decide
/-- D8. -/
theorem test_draw_out_of_bounds :
    (after 0xD013 { State.reset with I := 0xFFE#16 }).map (fun t => (t.fault, t.fb)) =
      some (some ⟨.outOfBounds, 0x200#16, some 0xD013#16⟩, State.reset.fb) := by decide

/-! ### Keys and timers (95_test_vectors.md section 2.5) -/

/-- K1 and K4. -/
theorem test_skp : regsAfter 0xE59E (pressing [10] (regs [(5#4, 0x0A#8)])) [] = some ([], 0x204#16) ∧
    (after 0xE59E (regs [(5#4, 0x10#8)])).map State.fault =
      some (some ⟨.outOfBounds, 0x200#16, some 0xE59E#16⟩) := by decide
/-- K3 and K4. -/
theorem test_sknp : regsAfter 0xE5A1 (regs [(5#4, 0x0A#8)]) [] = some ([], 0x204#16) ∧
    (after 0xE5A1 (regs [(5#4, 0x10#8)])).map State.fault =
      some (some ⟨.outOfBounds, 0x200#16, some 0xE5A1#16⟩) := by decide
/-- S10, step 1. -/
theorem test_wait_suspends : (after 0xF30A State.reset).map (fun t => (t.wait, t.pc, t.result)) =
    some (some 3#4, 0x200#16, some .awaitingInput) := by decide
/-- K6: one key pressed leaves no choice. -/
theorem test_wait_completes (n : Nat) : drawKeyFrom (pressing [7] State.reset).pressed n = 7 := by
  simp [show (pressing [7] State.reset).pressed = [7] by decide, drawKeyFrom, Nat.mod_one]
/-- The second step of T1. -/
theorem test_ldVxDT : regsAfter 0xF607 { State.reset with DT := 0x39#8 } [6#4] = some ([0x39#8], 0x202#16) := by
  decide
/-- T1: the write, and three ticks. -/
theorem test_ldDTVx : (after 0xF515 (regs [(5#4, 0x3C#8)])).map (fun t => (t.DT, t.tick.tick.tick.DT)) =
    some (0x3C#8, 0x39#8) := by decide
/-- T3. -/
theorem test_ldSTVx : (after 0xF518 (regs [(5#4, 2#8)])).map
    (fun t => (t.soundValue, t.tick.soundValue, t.tick.tick.tick.soundValue)) = some (2#8, 1#8, 0#8) := by decide

/-! ### The host (95_test_vectors.md section 2.6) -/

/-- K8. -/
theorem test_setKey_refused : State.reset.setKey 16 true = none := by decide
/-- F4: one byte too many. -/
theorem test_load_too_long : State.reset.load (List.replicate 3585 0#8) = none := by
  rw [State.load, List.length_replicate]
  rfl
/-- F5. -/
theorem test_load_after_step : { State.reset with result := some .cont }.load [1#8] = none := by decide
/-- F6: glyph 0 of the font. -/
theorem test_font_glyphs : fontData.length = 80 ∧ fontData.take 5 = [0xF0#8, 0x90#8, 0x90#8, 0x90#8, 0xF0#8] ∧
    fontData.drop 75 = [0xF0#8, 0x80#8, 0xF0#8, 0x80#8, 0x80#8] := by decide

/-! ### Witnesses: concrete states and operands that meet each statement's hypotheses together -/

/-- A machine in the middle of a run: it stands at 0x300 and its latest step continued. -/
def running : State := { State.reset with pc := 0x300#16, result := some .cont }

theorem running_inv : running.Inv where
  memCanonical := Memory.wf_nil
  spBound := by decide
  pcBound := by decide
  liveStack := by decide
  waiting := by simp [running, State.reset]
  latched := by simp [running, State.reset]
  fresh := by simp [running]

theorem witness_DecodeOfEncode : (Instr.drw 0#4 0xF#4 0xF#4).wf = true ∧ Instr.brk.wf = true := by decide
theorem witness_EncodeOfDecode : decodeWord 0xD0FF#16 = .ok (.drw 0#4 0xF#4 0xF#4) ∧ decodeWord breakWord = .ok .brk :=
  ⟨rfl, by simp [decodeWord, decodeRow_breakWord]⟩
theorem witness_IllegalSpaceIsExact : ∃ w, w ≠ breakWord ∧ IllegalSpace w := by
  by_cases h : 0x0000#16 = breakWord
  · refine ⟨0x0FFF#16, ?_, .inl (by decide)⟩
    rw [← h]
    decide
  · exact ⟨0x0000#16, h, .inl (by decide)⟩
theorem witness_OneRowMatchesAndDecodes :
    (InRow (.drw 1#4 2#4 3#4) 0xDABF#16 ∧ InRow (.drw 0#4 0#4 1#4) 0xDABF#16) ∧ InRow .brk breakWord ∧
    ∃ w, ∀ i, i ≠ .brk → ¬InRow i w := by
  refine ⟨⟨⟨by decide, by decide⟩, ⟨by decide, by decide⟩⟩, ⟨BitVec.and_allOnes, by simp⟩, 0x0000#16, fun i hi => ?_⟩
  rintro ⟨h, -⟩
  cases i <;> simp [rowMatch] at h hi
theorem witness_StepRunsDecodedInstruction :
    (bytesAt 0xFFE [0x12#8, 0x08#8] { running with pc := 0xFFE#16 }).fault = none ∧
    (bytesAt 0xFFE [0x12#8, 0x08#8] { running with pc := 0xFFE#16 }).pc.toNat + 1 < 4096 ∧
    decode [(bytesAt 0xFFE [0x12#8, 0x08#8] { running with pc := 0xFFE#16 }).mem.read 0xFFE,
      (bytesAt 0xFFE [0x12#8, 0x08#8] { running with pc := 0xFFE#16 }).mem.read 0xFFF] =
      .ok (.jp 0x208#12, []) := by decide
theorem witness_FetchIsBoundedAndBigEndian :
    ({ running with pc := 0xFFF#16 }.fault = none ∧ 4096 ≤ { running with pc := 0xFFF#16 }.pc.toNat + 1) ∧
    { running with pc := 0xFFE#16 }.pc.toNat + 1 < 4096 := by decide
theorem witness_IllegalWordTakesDecodeError :
    ∃ (s : State) (w : Word), s.fault = none ∧ fetchWord s = some w ∧ w ≠ breakWord ∧ IllegalSpace w := by
  by_cases h : 0x0000#16 = breakWord
  · refine ⟨bytesAt 0x300 [0x0F#8, 0xFF#8] running, 0x0FFF#16, by decide, by decide, ?_, .inl (by decide)⟩
    rw [← h]
    decide
  · exact ⟨running, 0x0000#16, by decide, by decide, h, .inl (by decide)⟩
theorem witness_LatchedMachineRepeatsItsFault :
    (running.takeFault .outOfBounds none).fault = some ⟨.outOfBounds, 0x300#16, none⟩ := by decide
theorem witness_FaultsArePreciseAndCommitNothing :
    step (State.reset.withFetchWord 16 0x00EE) =
      .next ((State.reset.withFetchWord 16 0x00EE).takeFault .stackUnderflow (some 0x00EE#16)) ∧
    ((State.reset.withFetchWord 16 0x00EE).takeFault .stackUnderflow (some 0x00EE#16)).fault =
      some ⟨.stackUnderflow, 0x200#16, some 0x00EE#16⟩ := ⟨rfl, rfl⟩
theorem witness_FaultKindsHaveTheirRaisers :
    (exec .ret running = .next (running.takeFault .stackUnderflow (some 0x00EE#16)) ∧ running.fault = none ∧
      (running.takeFault .stackUnderflow (some 0x00EE#16)).fault = some ⟨.stackUnderflow, 0x300#16, some 0x00EE#16⟩) ∧
    (exec (.skp 1#4) { running with V := Vector.replicate 16 16#8 } =
      .next ({ running with V := Vector.replicate 16 16#8 }.takeFault .outOfBounds (some 0xE19E#16))) :=
  ⟨⟨rfl, rfl, rfl⟩, rfl⟩
theorem witness_HaltedAndAwaitingHaveOneSource :
    exec .brk running = .next running.advance.halt ∧ exec (.ldVxK 3#4) running = .next (running.awaitKey 3#4) :=
  ⟨rfl, rfl⟩
theorem witness_StateIsWrittenByItsWritersOnly :
    exec (.ldDTVx 3#4) running = .next (running.advance.setDT (running.reg 3#4)) := rfl
theorem witness_FlagIsWrittenByItsWritersOnly :
    exec (.subReg 1#4 2#4) running = .next (running.advance.writeWithFlag 1#4 0#8 true) ∧
    (running.advance.writeWithFlag 1#4 0#8 true).reg 0xF#4 ≠ running.reg 0xF#4 := ⟨rfl, by decide⟩
theorem witness_SoundTimerIsNeverRead :
    exec (.ldSTVx 3#4) running = .next (running.advance.setST (running.reg 3#4)) ∧
    exec (.ldDTVx 3#4) running = .next (running.advance.setDT (running.reg 3#4)) := ⟨rfl, rfl⟩
/-- A return from the one live entry, the other fifteen stale. -/
theorem witness_StaleStackEntriesAreNeverRead :
    { running with sp := 1#8 }.sp.toNat ≤ 16 ∧
    exec .ret { running with sp := 1#8 } = .next ({ running with sp := 1#8 }.advance.dropTop.setPc 0#16) ∧
    (∀ j : Fin 16, j.val < 1 → (Vector.ofFn (fun k : Fin 16 => BitVec.ofNat 16 k.val))[j] =
      { running with sp := 1#8 }.stack[j]) := ⟨by decide, rfl, by decide⟩
theorem witness_ResetHasTheInvariant :
    ({ Launch.zero with mem := [(0x201, 7#8)] } : Launch).mem.wf := by decide
theorem witness_StepKeepsTheInvariant :
    running.Inv ∧ step (running.withFetchWord 16 0x1208) =
      .next ((running.withFetchWord 16 0x1208).advance.setPc 0x208#16) := ⟨running_inv, rfl⟩
theorem witness_HostOperationsKeepTheInvariant : running.Inv ∧ ∀ l, HostOp.tick = .reset l → l.mem.wf :=
  ⟨running_inv, by simp⟩
theorem witness_RunningMachineAlwaysSteps : running.Inv ∧ running.fault = none := ⟨running_inv, rfl⟩
theorem witness_BreakHalts :
    { running with pc := 0xFFE#16 }.fault = none ∧ { running with pc := 0xFFE#16 }.pc = 0xFFE#16 := ⟨rfl, rfl⟩
theorem witness_JumpGoesToTheAddress : running.fault = none ∧ 4096 ≤ (0xFFF#12).toNat + 1 := by decide
theorem witness_JumpV0IsUnmasked : (regs [(0#4, 0x90#8)]).fault = none ∧
    4096 ≤ (0xF80#12).toNat + ((regs [(0#4, 0x90#8)]).reg 0#4).toNat + 1 := by decide
theorem witness_RegisterSkips : (fieldFamily 0x5121#16 = 0x5#4 ∧ fieldN 0x5121#16 ≠ 0#4) ∧
    (fieldFamily 0x912F#16 = 0x9#4 ∧ fieldN 0x912F#16 ≠ 0#4) ∧ Instr.cls ≠ .brk := by decide
theorem witness_CallPushesOrOverflows :
    16 ≤ { running with sp := 16#8 }.sp.toNat ∧ { running with sp := 15#8 }.sp.toNat < 16 := by decide
theorem witness_ReturnPopsOrUnderflows :
    running.sp.toNat = 0 ∧ { running with sp := 16#8 }.sp.toNat = (15 : Fin 16).val + 1 ∧
    { running with sp := 1#8 }.sp.toNat = (0 : Fin 16).val + 1 := by decide
theorem witness_ReturnAboveSixteenIsRefused : 16 < { running with sp := 17#8 }.sp.toNat := by decide
theorem witness_CallThenReturnComesBack :
    { running with sp := 15#8 }.sp.toNat < 16 ∧
    exec (.call 0x400#12) { running with sp := 15#8 } =
      .next (({ running with sp := 15#8 }.advance.push 0x302#16).setPc 0x400#16) := ⟨by decide, rfl⟩
/-- The destination is not VF: for the flagged instructions' own clause on V[x]. -/
theorem witness_destination_not_flag : (0xE#4 : Nibble) ≠ 0xF#4 := by decide
theorem witness_ShiftsSetTheBitShiftedOut :
    ∃ v, v = (match Config.shiftSource with
      | .vx => (running.reg 1#4).toNat
      | .vy => (running.reg 2#4).toNat) := ⟨_, rfl⟩
theorem witness_transfers_in_and_out_of_bounds :
    (4096 ≤ { running with I := 0xFF1#16 }.I.toNat + (0xF#4).toNat ∧
      { running with I := 0xFF0#16 }.I.toNat + (0xF#4).toNat < 4096) ∧
    (4096 ≤ { running with I := 0xFFE#16 }.I.toNat + 2 ∧ { running with I := 0xFFD#16 }.I.toNat + 2 < 4096) := by
  decide
theorem witness_StoreThenLoadRestores :
    running.I.toNat + (6#4).toNat < 4096 ∧
    exec (.ldMemVx 6#4) running =
      .next (running.advance.setMem (running.mem.writeBlock 0 (running.regBlock 6#4))) := ⟨by decide, rfl⟩
/-- M15: the store over the next instruction. -/
theorem witness_StoreIsSeenByTheNextFetch :
    { running with I := 0x302#16 }.I = { running with I := 0x302#16 }.pc + 2#16 ∧ 1 ≤ (1#4).toNat ∧
    { running with I := 0x302#16 }.I.toNat + (1#4).toNat < 4096 ∧
    exec (.ldMemVx 1#4) { running with I := 0x302#16 } =
      .next ({ running with I := 0x302#16 }.advance.setMem
        (running.mem.writeBlock 0x302 (running.regBlock 1#4))) := ⟨by decide, by decide, by decide, rfl⟩
/-- D8 and D9 at the top of memory, with a row count that is not 0. -/
theorem witness_DrawFlipsExactlyTheCoveredPixels :
    fieldFamily 0xD010#16 = 0xD#4 ∧ fieldN 0xD010#16 = 0#4 ∧ (4#4 : Nibble) ≠ 0#4 ∧ 4096 ≤ { running with I := 0xFFD#16 }.I.toNat + (4#4).toNat - 1 ∧
    { running with I := 0xFFC#16 }.I.toNat + (4#4).toNat - 1 < 4096 := by decide
/-- S11: one pixel, twice, onto an unset surface; the second state is the first draw's own, at registers other than VF. -/
theorem witness_DrawTwiceCancels :
    ∃ s t u : State, (1#4 : Nibble) ≠ 0#4 ∧ s.I.toNat + (1#4).toNat - 1 < 4096 ∧ u.I.toNat + (1#4).toNat - 1 < 4096 ∧
      exec (.drw 0#4 1#4 1#4) s = .next t ∧ u.fb = t.fb ∧ (u.reg 0#4).toNat % 64 = (s.reg 0#4).toNat % 64 ∧
      (u.reg 1#4).toNat % 32 = (s.reg 1#4).toNat % 32 ∧
      (∀ r, r < (1#4).toNat → u.mem.read (u.I.toNat + r) = s.mem.read (s.I.toNat + r)) ∧
      s.mem.read (s.I.toNat + 0) ≠ 0#8 ∧ (∀ Y X, Frame.pixel s.fb Y X = false) ∧ t.reg 0xF#4 = 0#8 := by
  refine ⟨bytesAt 0x300 [0x80#8] { running with I := 0x300#16 }, _, drawFrom Config.spriteEdge 0#4 1#4 1#4
    (bytesAt 0x300 [0x80#8] { running with I := 0x300#16 }), by decide, by decide, by decide, rfl, rfl, rfl, rfl,
    fun _ _ => rfl, by decide, fun Y X => Frame.pixel_clear Y X, ?_⟩
  cases Config.spriteEdge <;> decide
theorem witness_KeySkips :
    16 ≤ ((regs [(5#4, 16#8)]).reg 5#4).toNat ∧ ((regs [(5#4, 15#8)]).reg 5#4).toNat = (15 : Fin 16).val := by decide
theorem witness_WaitForKey :
    (∀ k : Fin 16, running.key[k] = false) ∧ ∃ k : Fin 16, (pressing [15] running).key[k] = true :=
  ⟨by decide, 15, by decide⟩
theorem witness_WaitingNeverAdvances :
    (running.withFetchWord 16 0xF30A).fault = none ∧ fetchWord (running.withFetchWord 16 0xF30A) = some 0xF30A#16 ∧
    decodeWord 0xF30A#16 = .ok (.ldVxK 3#4) ∧ ∀ k : Fin 16, (running.withFetchWord 16 0xF30A).key[k] = false :=
  ⟨rfl, by decide, rfl, by decide⟩
theorem witness_SetKeySetsOneKey : 16 ≤ 16 ∧ 15 < 16 := by decide
theorem witness_LoadWritesAtTheLoadBase :
    (State.reset.result = none ∧ (List.replicate 3584 0#8).length ≤ 3584) ∧
    ¬(State.reset.result = none ∧ (List.replicate 3585 0#8).length ≤ 3584) ∧
    ¬(running.result = none ∧ ([] : List Byte).length ≤ 3584) ∧
    running.Inv ∧ HostOp.tick ≠ .step ∧ ∀ l, HostOp.tick ≠ .reset l := by
  rw [List.length_replicate, List.length_replicate]
  exact ⟨by decide, by decide, by decide, running_inv, nofun, fun _ => nofun⟩
theorem witness_ResetLeavesTheStatedValues : (79 : Nat) < 80 ∧ ¬(fontBase ≤ 0x200 ∧ 0x200 < fontBase + 80) := by
  have := fontBase_le
  omega
theorem witness_HostReachesOnlyItsTargets : hostOp .soundValue running = (running, .sound running.ST) := rfl

end Sys2Proof.Tests
end

section
/-! PROOFS. What reset leaves, for all launch inputs (10_state.md rule R39, 70_reset_and_hazards.md rule R260). -/

namespace Sys2Proof.Machine

theorem fontData_length : fontData.length = Config.fontBytes := by decide

/-- The font window reads as FONT_DATA after the preload, whatever the launch memory held. -/
theorem Memory.read_preloadFont_window (m : Memory) {i : Nat} (hi : i < 80) :
    some (m.preloadFont.read (fontBase + i)) = fontData[i]? := by
  have hin : inFont (fontBase + i) = true := (inFont_iff _).mpr ⟨by omega, by omega⟩
  have hlen : i < fontData.length := hi.trans_eq fontData_length.symm
  rw [Memory.read_preloadFont, if_pos hin, Nat.add_sub_cancel_left, List.getD_eq_getElem _ _ hlen,
    List.getElem?_eq_getElem hlen]

/-- The preload keeps every byte outside the font window. -/
theorem Memory.read_preloadFont_outside (m : Memory) {a : Nat} (ha : ¬(fontBase ≤ a ∧ a < fontBase + 80)) :
    m.preloadFont.read a = m.read a := by
  rw [Memory.read_preloadFont, if_neg (mt (inFont_iff a).mp ha)]

theorem State.resetWith_key (l : Launch) (d : Nat) (k : Fin 16) : (State.resetWith l d).key[k] = false :=
  Vector.getElem_replicate k.isLt

/-- Settles O56: every field but key and mem is written out by `resetWith`; memory is the launch memory with the font
preloaded, read inside the window and outside it. -/
theorem resetLeavesTheStatedValues : Obligations.ResetLeavesTheStatedValues := by
  intro l s
  have hkey := State.resetWith_key l s.draws
  exact ⟨State.resetWith l s.draws, rfl, rfl, rfl, rfl, rfl, hkey, rfl, rfl, rfl, rfl, rfl, rfl,
    fun _ => Memory.read_preloadFont_window l.mem, fun _ => Memory.read_preloadFont_outside l.mem⟩

end Sys2Proof.Machine
end

section
/-! PROOFS. Each word of one of rows 2 to 35 is decoded to an instruction of that row, so BREAK_WORD, which is none of
theirs, is in row 1 only (30_encoding.md rules R74 to R76). -/

namespace Sys2Proof.Machine

/-! ### The fields of a word in a row -/

theorem fieldFamily_and (v w : Word) : fieldFamily (v &&& w) = fieldFamily v &&& fieldFamily w := BitVec.extractLsb'_and

theorem fieldN_and (v w : Word) : fieldN (v &&& w) = fieldN v &&& fieldN w := BitVec.extractLsb'_and

theorem fieldKK_and (v w : Word) : fieldKK (v &&& w) = fieldKK v &&& fieldKK w := BitVec.extractLsb'_and

/-- Every row fixes the opcode nibble. -/
theorem fieldFamily_rowMask (i : Instr) : fieldFamily (rowMask i) = 0xF#4 := by
  unfold rowMask
  split <;> rfl

theorem InRow.fieldFamily_eq {i : Instr} {w : Word} (h : InRow i w) : fieldFamily w = fieldFamily (rowMatch i) := by
  rw [← h.1, fieldFamily_and, fieldFamily_rowMask]
  exact BitVec.and_allOnes.symm

theorem InRow.fieldN_eq {i : Instr} {w : Word} (h : InRow i w) (hm : rowMask i = 0xF00F#16) :
    fieldN w = fieldN (rowMatch i) := by
  rw [← h.1, fieldN_and, hm]
  exact BitVec.and_allOnes.symm

theorem InRow.fieldKK_eq {i : Instr} {w : Word} (h : InRow i w) (hm : rowMask i = 0xF0FF#16) :
    fieldKK w = fieldKK (rowMatch i) := by
  rw [← h.1, fieldKK_and, hm]
  exact BitVec.and_allOnes.symm

theorem InRow.eq_rowMatch {i : Instr} {w : Word} (h : InRow i w) (hm : rowMask i = 0xFFFF#16) : w = rowMatch i := by
  rw [← h.1, hm]
  exact BitVec.and_allOnes.symm

/-! ### The decoder on the words of a row -/

/-- A word of one of rows 2 to 35 is decoded to an instruction of that row: it has the row's fixed fields, and the
decoder dispatches on these. -/
theorem InRow.decodeRow_sameRow {i : Instr} {w : Word} (h : InRow i w) (hi : i ≠ .brk) :
    ∃ j, decodeRow w = some j ∧ SameRow i j := by
  have hfam := h.fieldFamily_eq
  cases i with
  | brk => exact absurd rfl hi
  | cls | ret =>
    rw [h.eq_rowMatch rfl]
    exact ⟨_, rfl, rfl, rfl⟩
  | jp | call | seImm | sneImm | ldImm | addImm | ldI | jpV0 | rnd =>
    simp only [decodeRow, hfam, rowMatch]
    exact ⟨_, rfl, rfl, rfl⟩
  | seReg | sneReg =>
    simp only [decodeRow, hfam, h.fieldN_eq rfl, rowMatch]
    exact ⟨_, rfl, rfl, rfl⟩
  | ldReg | orReg | andReg | xorReg | addReg | subReg | shr | subnReg | shl =>
    simp only [decodeRow, hfam, decodeArith, h.fieldN_eq rfl, rowMatch]
    exact ⟨_, rfl, rfl, rfl⟩
  | drw x y n =>
    simp only [decodeRow, hfam, if_neg (h.2 x y n rfl), rowMatch]
    exact ⟨_, rfl, rfl, rfl⟩
  | skp | sknp =>
    simp only [decodeRow, hfam, decodeKeySkip, h.fieldKK_eq rfl, rowMatch]
    exact ⟨_, rfl, rfl, rfl⟩
  | ldVxDT | ldVxK | ldDTVx | ldSTVx | addI | ldF | ldB | ldMemVx | ldVxMem =>
    simp only [decodeRow, hfam, decodeMisc, h.fieldKK_eq rfl, rowMatch]
    exact ⟨_, rfl, rfl, rfl⟩

/-- Settles O5: a row other than BRK decodes each of its words, and none of them decodes BREAK_WORD. -/
theorem breakWordMatchesOnlyItsRow : Obligations.BreakWordMatchesOnlyItsRow := by
  intro i
  constructor
  · intro h
    by_contra hi
    obtain ⟨j, hj, -⟩ := h.decodeRow_sameRow hi
    simp [decodeRow_breakWord] at hj
  · rintro rfl
    exact ⟨Laws.RowPattern.brk, nofun⟩

end Sys2Proof.Machine
end

section
/-! PROOFS. The fetch at both ends of memory, and the latched machine under every host operation (40_step_and_control.md
rules R102 and R103). -/

namespace Sys2Proof.Machine

/-! ### Two fields put together, as a number (00_scope.md rule R11, 30_encoding.md rule R72) -/

theorem setWidth_shiftLeft_or {m n : Nat} (a : BitVec m) (b : BitVec n) :
    (a.setWidth 16 <<< n ||| b.setWidth 16 : Word) = (a ++ b).setWidth 16 := by
  ext i hi
  by_cases h : i < n
  · simp [BitVec.getLsbD_append, h]
  · simp [BitVec.getLsbD_append, h, BitVec.getLsbD_of_ge b i (Nat.not_lt.mp h)]

theorem toNat_append_eq_add {m n : Nat} (a : BitVec m) (b : BitVec n) :
    (a ++ b).toNat = a.toNat * 2 ^ n + b.toNat := by
  rw [BitVec.toNat_append, ← Nat.shiftLeft_add_eq_or_of_lt b.isLt, Nat.shiftLeft_eq]

theorem toNat_setWidth_shiftLeft_or {m n : Nat} (a : BitVec m) (b : BitVec n) (h : m + n ≤ 16) :
    (a.setWidth 16 <<< n ||| b.setWidth 16 : Word).toNat = a.toNat * 2 ^ n + b.toNat := by
  rw [setWidth_shiftLeft_or, BitVec.toNat_setWidth_of_le h, toNat_append_eq_add]

theorem concat_toNat (a b : Byte) : (concat a b).toNat = a.toNat * 256 + b.toNat :=
  toNat_setWidth_shiftLeft_or a b (by decide)

/-! ### The fetch -/

theorem fetchWord_of_outside {s : State} (h : 4096 ≤ s.pc.toNat + 1) : fetchWord s = none :=
  if_neg (Nat.not_lt.mpr h)

theorem fetchWord_of_inside {s : State} (h : s.pc.toNat + 1 < 4096) :
    fetchWord s = some (concat (s.mem.read s.pc.toNat) (s.mem.read (s.pc.toNat + 1))) :=
  if_pos h

theorem step_of_fetchWord_none {s : State} (hf : s.fault = none) (hw : fetchWord s = none) :
    step s = .next (s.takeFault .outOfBounds none) := by
  simp only [step, hf, hw]

/-- A pc that leaves no room for a word makes the next step fault at its fetch. -/
theorem fetchFaults_of_outside {s : State} (hf : s.fault = none) (h : 4096 ≤ s.pc.toNat + 1) : FetchFaults s :=
  ⟨_, step_of_fetchWord_none hf (fetchWord_of_outside h), takeFault_faultTaken s _ _⟩

/-- Settles O8: the fetch is bounded by the byte after the pc, and its word is the concatenation of the two bytes. -/
theorem fetchIsBoundedAndBigEndian : Obligations.FetchIsBoundedAndBigEndian := by
  intro s
  exact ⟨fetchFaults_of_outside, fun h => ⟨_, fetchWord_of_inside h, concat_toNat _ _⟩⟩

/-! ### The latch -/

theorem step_of_latched {s : State} {r : FaultRecord} (h : s.fault = some r) : step s = .fault r.kind := by
  simp only [step, h]

theorem hostStep_of_latched {s : State} {r : FaultRecord} (h : s.fault = some r) :
    hostStep s = (s, .stepped (.fault r.kind)) := by
  simp only [hostStep, step_of_latched h]

theorem State.load_fault {s t : State} {bytes : List Byte} (h : s.load bytes = some t) : t.fault = s.fault := by
  unfold State.load at h
  split at h <;> cases h
  rfl

theorem State.setKey_fault {s t : State} {k : Nat} {pressed : Bool} (h : s.setKey k pressed = some t) :
    t.fault = s.fault := by
  unfold State.setKey at h
  split at h <;> cases h
  rfl

/-- No host operation but reset clears the latch. -/
theorem hostOp_keeps_latch {s : State} {r : FaultRecord} (h : s.fault = some r) {op : HostOp}
    (hop : ∀ l, op ≠ .reset l) : (hostOp op s).1.fault = some r := by
  cases op with
  | reset l => exact absurd rfl (hop l)
  | load bytes =>
    simp only [hostOp]
    split
    next t ht => exact (State.load_fault ht).trans h
    next => exact h
  | step => simp only [hostOp, hostStep_of_latched h, h]
  | setKey k pressed =>
    simp only [hostOp]
    split
    next t ht => exact (State.setKey_fault ht).trans h
    next => exact h
  | tick | inspect | soundValue => exact h

/-- Settles O10: a latched step is answered before anything else is looked at; the other operations go one by one. -/
theorem latchedMachineRepeatsItsFault : Obligations.LatchedMachineRepeatsItsFault := by
  intro s r h
  exact ⟨step_of_latched h, hostStep_of_latched h, fun _ => hostOp_keeps_latch h, fun _ => rfl⟩

end Sys2Proof.Machine
end

section
/-! PROOFS. Break, jumps, call and return: the word, the outcome, and the frame of each (40_step_and_control.md rules R106
to R110). -/

namespace Sys2Proof.Machine

/-! ### The word of an address format, and the frame that all control instructions share -/

theorem formatNNN_toNat (f : Nibble) (nnn : Addr12) : (formatNNN f nnn).toNat = f.toNat * 4096 + nnn.toNat :=
  toNat_setWidth_shiftLeft_or f nnn (by decide)

/-- A completed step that goes on to write the pc, the stack and the result alone meets the frame of control. -/
theorem writesPcOnly_of_advance (s : State) (p : Word) (sp : Byte) (stack : Vector Word 16) (r : Option StepResult) :
    WritesPcOnly s { s.advance with pc := p, sp := sp, stack := stack, result := r } :=
  ⟨rfl, fun _ _ => rfl, rfl, ⟨rfl, rfl⟩, ⟨rfl, rfl⟩, rfl, fun _ => rfl, rfl⟩

/-! ### Break and jumps -/

/-- Settles O22: the state after BRK is the advanced one with the result Halted; from 0xFFE its pc is 0x1000. -/
theorem breakHalts : Obligations.BreakHalts := by
  intro s
  refine ⟨rfl, s.advance.halt, rfl, rfl, rfl, ⟨rfl, rfl⟩, writesPcOnly_of_advance .., fun hf hp => ?_⟩
  exact fetchFaults_of_outside hf (by simp [hp])

/-- Settles O23: the target is the zero-extended address. -/
theorem jumpGoesToTheAddress : Obligations.JumpGoesToTheAddress := by
  intro nnn s
  have hpc : (s.advance.setPc (addrOf nnn)).pc.toNat = nnn.toNat := addrOf_toNat nnn
  refine ⟨formatNNN_toNat 0x1#4 nnn, s.advance.setPc (addrOf nnn), rfl, ⟨rfl, rfl⟩, hpc, ⟨rfl, rfl⟩,
    writesPcOnly_of_advance .., fun hf ht => ?_⟩
  exact fetchFaults_of_outside hf (hpc.symm ▸ ht)

/-- The sum of a 12-bit address and a byte stays below 2 ^ 16, so it is not truncated. -/
theorem addrOf_add_zextByte_toNat (nnn : Addr12) (b : Byte) :
    (addrOf nnn + zextByte b).toNat = nnn.toNat + b.toNat := by
  rw [BitVec.toNat_add, addrOf_toNat, zextByte_toNat]
  omega

/-- Settles O24: the target is the sum of the address and V0 as natural numbers. -/
theorem jumpV0IsUnmasked : Obligations.JumpV0IsUnmasked := by
  intro nnn s
  have hpc : (s.advance.setPc (addrOf nnn + zextByte (s.reg 0#4))).pc.toNat = nnn.toNat + (s.reg 0#4).toNat :=
    addrOf_add_zextByte_toNat nnn _
  refine ⟨formatNNN_toNat 0xB#4 nnn, s.advance.setPc (addrOf nnn + zextByte (s.reg 0#4)), rfl, ⟨rfl, rfl⟩, hpc,
    ⟨rfl, rfl⟩, writesPcOnly_of_advance .., fun hf ht => ?_⟩
  exact fetchFaults_of_outside hf (hpc.symm ▸ ht)

/-! ### Call and return -/

theorem exec_call_of_full (nnn : Addr12) {s : State} (h : 16 ≤ s.sp.toNat) :
    exec (.call nnn) s = .next (s.takeFault .stackOverflow (some (encode (.call nnn)))) :=
  if_pos h

theorem exec_call_of_room (nnn : Addr12) {s : State} (h : s.sp.toNat < 16) :
    exec (.call nnn) s = .next ((s.advance.push (s.pc + 2#16)).setPc (addrOf nnn)) :=
  if_neg (Nat.not_le.mpr h)

theorem State.push_sp_toNat {s : State} (v : Word) (h : s.sp.toNat < 16) :
    (s.push v).sp.toNat = s.sp.toNat + 1 := by
  rw [State.push_sp, BitVec.toNat_add_of_lt]
  · rfl
  · exact Nat.lt_trans (Nat.succ_lt_succ h) (by decide)

theorem State.push_stack_eq_set {s : State} (v : Word) (h : s.sp.toNat < 16) :
    (s.push v).stack = s.stack.set s.sp.toNat v h := by
  ext i hi
  simp [Vector.getElem_set, Vector.getElem_setIfInBounds]

/-- Settles O25: the split is the one `execCall` makes on the stack pointer. -/
theorem callPushesOrOverflows : Obligations.CallPushesOrOverflows := by
  intro nnn s
  refine ⟨formatNNN_toNat 0x2#4 nnn, fun h => ?full, fun h => ?room⟩
  case full => exact ⟨_, exec_call_of_full nnn h, takeFault_faultTaken s _ _⟩
  case room =>
    exact ⟨_, exec_call_of_room nnn h, ⟨rfl, rfl⟩, addrOf_toNat nnn, State.push_sp_toNat (s := s.advance) (s.pc + 2#16) h,
      State.push_stack_eq_set (s := s.advance) _ h, writesPcOnly_of_advance ..⟩

theorem exec_ret_of_empty {s : State} (h : s.sp.toNat = 0) :
    exec .ret s = .next (s.takeFault .stackUnderflow (some (encode .ret))) :=
  if_pos (BitVec.eq_of_toNat_eq h)

theorem exec_ret_of_live {s : State} (j : Fin 16) (h : s.sp.toNat = j.val + 1) :
    exec .ret s = .next (s.advance.dropTop.setPc s.stack[j]) := by
  have hsp : s.sp ≠ 0#8 := fun h0 => by simp [h0] at h
  have htop : s.stack[s.sp.toNat - 1]? = some s.stack[j] := by
    rw [h, Nat.add_sub_cancel]
    exact Vector.getElem?_eq_getElem j.isLt
  simp only [exec, execRet, if_neg hsp, htop]

theorem State.dropTop_sp_toNat {s : State} (h : 1 ≤ s.sp.toNat) : s.dropTop.sp.toNat = s.sp.toNat - 1 :=
  BitVec.toNat_sub_of_le h

/-- Settles O26: an empty stack underflows, and a live entry is the target. -/
theorem returnPopsOrUnderflows : Obligations.ReturnPopsOrUnderflows := by
  intro s
  refine ⟨rfl, fun h => ?empty, fun j h => ?live⟩
  case empty => exact ⟨_, exec_ret_of_empty h, takeFault_faultTaken s _ _⟩
  case live =>
    have hsp : 1 ≤ s.sp.toNat := h ▸ Nat.le_add_left 1 j
    exact ⟨_, exec_ret_of_live j h, ⟨rfl, rfl⟩, rfl, State.dropTop_sp_toNat (s := s.advance) hsp, rfl,
      writesPcOnly_of_advance ..⟩

end Sys2Proof.Machine
end

section
/-! PROOFS. The register skips: their words, and one lemma for the end of every conditional skip (40_step_and_control.md
rules R111 to R115). -/

namespace Sys2Proof.Machine

/-! ### The words -/

/-- A register and a byte fill an address field. -/
theorem formatXKK_eq_formatNNN (f x : Nibble) (kk : Byte) : formatXKK f x kk = formatNNN f (x ++ kk) := by
  rw [formatXKK, BitVec.or_assoc, setWidth_shiftLeft_or]
  rfl

/-- A register and a nibble fill a byte field. -/
theorem formatXYN_eq_formatXKK (f x y n : Nibble) : formatXYN f x y n = formatXKK f x (y ++ n) := by
  rw [formatXYN, BitVec.or_assoc, setWidth_shiftLeft_or]
  rfl

theorem formatXKK_toNat (f x : Nibble) (kk : Byte) :
    (formatXKK f x kk).toNat = f.toNat * 4096 + 256 * x.toNat + kk.toNat := by
  rw [formatXKK_eq_formatNNN, formatNNN_toNat, toNat_append_eq_add]
  omega

theorem formatXYN_toNat (f x y n : Nibble) :
    (formatXYN f x y n).toNat = f.toNat * 4096 + 256 * x.toNat + 16 * y.toNat + n.toNat := by
  rw [formatXYN_eq_formatXKK, formatXKK_toNat, toNat_append_eq_add]
  omega

/-- A word of family 5 or 9 that does not end in 0 is in no row but BRK's: the decoder has none for it. -/
theorem not_inRow_of_skip_family {w : Word} (hfam : fieldFamily w = 0x5#4 ∨ fieldFamily w = 0x9#4)
    (hn : fieldN w ≠ 0#4) {i : Instr} (hi : i ≠ .brk) : ¬InRow i w := by
  intro h
  obtain ⟨j, hj, -⟩ := h.decodeRow_sameRow hi
  have hnone : decodeRow w = none := by
    obtain hfam | hfam := hfam <;> simp [decodeRow, hfam, hn]
  simp [hnone] at hj

/-! ### The end of a skip -/

/-- A conditional skip continues `d` bytes on, by its condition, and writes nothing but the pc. -/
theorem skipIf_completes {taken : Bool} {d : Word} (s : State) (hd : (if taken then 4#16 else 2#16) = d) :
    ∃ t, skipIf taken s = .next t ∧ Continued t ∧ KeepsStack s t ∧ WritesPcOnly s t ∧ t.pc = s.pc + d := by
  subst hd
  cases taken with
  | false => exact ⟨s.advance, rfl, ⟨rfl, rfl⟩, ⟨rfl, rfl⟩, writesPcOnly_of_advance .., rfl⟩
  | true =>
    exact ⟨s.advance.skipNext, rfl, ⟨rfl, rfl⟩, ⟨rfl, rfl⟩, writesPcOnly_of_advance .., BitVec.add_assoc ..⟩

theorem skip_distance_beq (a b : Byte) :
    (if (a == b) = true then 4#16 else 2#16) = if a.toNat = b.toNat then 4#16 else 2#16 := by
  simp [BitVec.toNat_inj]

theorem skip_distance_bne (a b : Byte) :
    (if (a != b) = true then 4#16 else 2#16) = if a.toNat = b.toNat then 2#16 else 4#16 := by
  simp [BitVec.toNat_inj]

/-- Settles O29: both are conditional skips on Vx and kk. -/
theorem immediateSkips : Obligations.ImmediateSkips := by
  intro x kk s
  exact ⟨formatXKK_toNat 0x3#4 x kk, formatXKK_toNat 0x4#4 x kk,
    skipIf_completes s (skip_distance_beq (s.reg x) kk), skipIf_completes s (skip_distance_bne (s.reg x) kk)⟩

/-- Settles O30: both are conditional skips on Vx and Vy, and the decoder has no row for the other words of their
families. -/
theorem registerSkips : Obligations.RegisterSkips := by
  intro x y s
  exact ⟨formatXYN_toNat 0x5#4 x y 0#4, formatXYN_toNat 0x9#4 x y 0#4,
    fun _ hfam hn _ hi => not_inRow_of_skip_family hfam hn hi,
    skipIf_completes s (skip_distance_beq (s.reg x) (s.reg y)),
    skipIf_completes s (skip_distance_bne (s.reg x) (s.reg y))⟩

end Sys2Proof.Machine
end

section
/-! PROOFS. Register loads, arithmetic, shifts and random: their words, the frame of a register write with and without a
flag, and each result and flag as a number (41_alu.md rules R130 to R133 and R137 to R142). -/

namespace Sys2Proof.Machine

/-! ### The words -/

/-- The words of family 8, with the last nibble next to the family as the opcode map gives them. -/
theorem formatXYN_family8_toNat (x y n : Nibble) :
    (formatXYN 0x8#4 x y n).toNat = 0x8000 + n.toNat + 256 * x.toNat + 16 * y.toNat := by
  rw [formatXYN_toNat, BitVec.toNat_ofNat]
  omega

/-! ### The frame of an instruction that writes registers (rule R130) -/

/-- A completed step that goes on to write registers and to count `drawn` draws, and nothing else, meets the whole frame
once its registers do. -/
theorem writesRegsOnly_of_advance {named : List Nibble} {s : State} {V : Vector Byte 16} (drawn : Nat)
    (h : KeepsRegsBut named s { s.advance with V := V }) :
    WritesRegsOnly named drawn s { s.advance with V := V, draws := s.draws + drawn } :=
  ⟨⟨rfl, rfl⟩, rfl, h, rfl, ⟨rfl, rfl⟩, ⟨rfl, rfl⟩, ⟨rfl, rfl⟩, rfl, fun _ => rfl, rfl⟩

theorem keepsRegsBut_setReg (s : State) (x : Nibble) (v : Byte) : KeepsRegsBut [x] s (s.advance.setReg x v) :=
  fun _ hj => State.reg_setReg_of_ne _ v (List.ne_of_not_mem_cons hj)

theorem keepsRegsBut_writeWithFlag (s : State) (x : Nibble) (r : Byte) (flag : Bool) :
    KeepsRegsBut [x, 0xF#4] s (s.advance.writeWithFlag x r flag) := by
  intro j hj
  obtain ⟨hx, hF⟩ : j ≠ x ∧ j ≠ 0xF#4 := by simpa using hj
  simp [State.reg_writeWithFlag, hx, hF]

theorem writesRegsOnly_setReg (s : State) (x : Nibble) (v : Byte) : WritesRegsOnly [x] 0 s (s.advance.setReg x v) :=
  writesRegsOnly_of_advance 0 (keepsRegsBut_setReg s x v)

theorem writesRegsOnly_writeWithFlag (s : State) (x : Nibble) (r : Byte) (flag : Bool) :
    WritesRegsOnly [x, 0xF#4] 0 s (s.advance.writeWithFlag x r flag) :=
  writesRegsOnly_of_advance 0 (keepsRegsBut_writeWithFlag s x r flag)

/-- An instruction that ends by writing the result `r` and then a flag leaves both as numbers, the flag in VF whatever
the destination. -/
theorem writeWithFlag_completes {i : Instr} {s : State} {x : Nibble} {r : Byte} {flag : Bool} {n f : Nat}
    (hi : exec i s = .next (s.advance.writeWithFlag x r flag)) (hr : r.toNat = n) (hf : flag.toNat = f) :
    ∃ t, exec i s = .next t ∧ WritesRegsOnly [x, 0xF#4] 0 s t ∧ (x ≠ 0xF#4 → (t.reg x).toNat = n) ∧
      (t.reg 0xF#4).toNat = f := by
  refine ⟨_, hi, writesRegsOnly_writeWithFlag s x r flag, fun hx => ?result, ?flag⟩
  case result => rw [State.reg_writeWithFlag, if_neg hx, if_pos rfl, hr]
  case flag => rw [State.reg_writeWithFlag, if_pos rfl, flagByte_toNat, hf]

/-! ### Results and flags as numbers -/

theorem carryOut_toNat (a b : Byte) : (carryOut a b).toNat = if a.toNat + b.toNat > 255 then 1 else 0 := by
  simp only [Bool.toNat, carryOut_iff, Bool.cond_eq_ite, gt_iff_lt]

theorem noBorrow_toNat (a b : Byte) : (noBorrow a b).toNat = if b.toNat ≤ a.toNat then 1 else 0 := by
  simp only [Bool.toNat, noBorrow_iff, Bool.cond_eq_ite]

theorem sub_toNat (a b : Byte) : (a - b).toNat = (256 + a.toNat - b.toNat) % 256 := by
  have hb := b.isLt
  rw [BitVec.toNat_sub]
  omega

theorem shiftRight_one_toNat (v : Byte) : (v >>> 1).toNat = v.toNat / 2 := by
  rw [BitVec.toNat_ushiftRight, Nat.shiftRight_one]

theorem shiftLeft_one_toNat (v : Byte) : (v <<< 1).toNat = 2 * v.toNat % 256 := by
  rw [BitVec.toNat_shiftLeft, Nat.shiftLeft_eq, Nat.mul_comm]

theorem lowBit_toNat (v : Byte) : (lowBit v).toNat = v.toNat % 2 := by
  rw [lowBit, BitVec.getLsbD, Nat.toNat_testBit, Nat.pow_zero, Nat.div_one]

/-- Bit 7 is the quotient by 128 of a value below 256. -/
theorem highBit_toNat (v : Byte) : (highBit v).toNat = v.toNat / 128 := by
  have hv := v.isLt
  rw [highBit, BitVec.getLsbD, Nat.toNat_testBit]
  omega

/-! ### Loads, add immediate and random -/

/-- Settles O31: one register write of the operand. -/
theorem registerLoads : Obligations.RegisterLoads := by
  intro x y kk s
  exact ⟨formatXKK_toNat 0x6#4 x kk, formatXYN_family8_toNat x y 0#4,
    ⟨_, rfl, State.reg_setReg_same .., writesRegsOnly_setReg s x kk⟩,
    ⟨_, rfl, State.reg_setReg_same .., writesRegsOnly_setReg s x (s.reg y)⟩⟩

/-- Settles O32: one register write of the sum of two bytes. -/
theorem addImmediateWrapsWithoutFlag : Obligations.AddImmediateWrapsWithoutFlag := by
  intro x kk s
  refine ⟨formatXKK_toNat 0x7#4 x kk, _, rfl, ?_, writesRegsOnly_setReg s x (s.reg x + kk)⟩
  rw [State.reg_setReg_same, BitVec.toNat_add]

/-- Settles O38: one register write of the masked draw, and the draw counted. -/
theorem randomIsDrawnAndMasked : Obligations.RandomIsDrawnAndMasked := by
  intro x kk s
  refine ⟨formatXKK_toNat 0xC#4 x kk, _, rfl,
    writesRegsOnly_of_advance 1 (keepsRegsBut_setReg s x (Config.drawByte s.draws &&& kk)), fun b => ?_⟩
  rw [State.reg_setReg_same, BitVec.getLsbD_and]

/-! ### Add, subtract and shift with a flag -/

/-- Settles O35: the sum of two bytes, then its carry. -/
theorem addSetsTheCarry : Obligations.AddSetsTheCarry := by
  intro x y s
  exact ⟨formatXYN_family8_toNat x y 0x4#4, writeWithFlag_completes rfl (BitVec.toNat_add ..) (carryOut_toNat ..)⟩

/-- Settles O36: the difference of two bytes, then its no-borrow flag; SUBN has the operands the other way round. -/
theorem subtractsSetNoBorrow : Obligations.SubtractsSetNoBorrow := by
  intro x y s
  exact ⟨formatXYN_family8_toNat x y 0x5#4, formatXYN_family8_toNat x y 0x7#4,
    writeWithFlag_completes rfl (sub_toNat ..) (noBorrow_toNat ..),
    writeWithFlag_completes rfl (sub_toNat ..) (noBorrow_toNat ..)⟩

/-- Settles O37: the statement's v is the operand that the shifts read, for either SHIFT_SOURCE. -/
theorem shiftsSetTheBitShiftedOut : Obligations.ShiftsSetTheBitShiftedOut := by
  intro x y s v hv
  have hsrc : v = (shiftOperand Config.shiftSource s x y).toNat := by
    rw [hv]
    cases Config.shiftSource <;> rfl
  subst hsrc
  exact ⟨formatXYN_family8_toNat x y 0x6#4, formatXYN_family8_toNat x y 0xE#4,
    writeWithFlag_completes rfl (shiftRight_one_toNat _) (lowBit_toNat _),
    writeWithFlag_completes rfl (shiftLeft_one_toNat _) (highBit_toNat _)⟩

end Sys2Proof.Machine
end

section
/-! PROOFS. The index register and the memory transfers: their words, the frame of an instruction that writes no register,
block stores and block loads on both sides of the bounds check (42_index_memory.md rules R160 to R166). -/

namespace Sys2Proof.Machine

/-! ### The words -/

/-- The words of family F, with the trailing byte next to the family as the opcode map gives them. -/
theorem formatXKK_familyF_toNat (x : Nibble) (kk : Byte) :
    (formatXKK 0xF#4 x kk).toNat = 0xF000 + kk.toNat + 256 * x.toNat := by
  rw [formatXKK_toNat, BitVec.toNat_ofNat]
  omega

/-! ### The frame of an instruction that writes no register (rule R166) -/

/-- A completed step that goes on to write I, the timers, the display and memory alone leaves all else. -/
theorem writesNoRegs_of_advance (s : State) (I : Word) (DT ST : Byte) (fb : Frame) (mem : Memory) :
    WritesNoRegs s { s.advance with I := I, DT := DT, ST := ST, fb := fb, mem := mem } :=
  ⟨⟨rfl, rfl⟩, rfl, fun _ _ => rfl, ⟨rfl, rfl⟩, ⟨rfl, rfl⟩, rfl⟩

/-! ### Writes of the index register -/

/-- An instruction that ends by writing `v` to I leaves it there as a number, and leaves all else. -/
theorem setI_completes {i : Instr} {s : State} {v : Word} {n : Nat} (hi : exec i s = .next (s.advance.setI v))
    (hv : v.toNat = n) :
    ∃ t, exec i s = .next t ∧ t.I.toNat = n ∧ WritesNoRegs s t ∧ KeepsTimers s t ∧ KeepsDisplay s t ∧ KeepsMem s t :=
  ⟨_, hi, hv, writesNoRegs_of_advance .., ⟨rfl, rfl⟩, rfl, fun _ => rfl⟩

theorem add_zextByte_toNat (a : Word) (b : Byte) : (a + zextByte b).toNat = (a.toNat + b.toNat) % 65536 := by
  rw [BitVec.toNat_add, zextByte_toNat]

theorem and_lowNibble_toNat (v : Byte) : (v &&& 0x0F#8).toNat = v.toNat % 16 := by
  rw [BitVec.toNat_and]
  exact Nat.and_two_pow_sub_one_eq_mod v.toNat 4

/-- A glyph starts below 0x200, so its address is not truncated. -/
theorem glyphAddr_toNat (v : Byte) : (glyphAddr v).toNat = fontBase + 5 * (v.toNat % 16) := by
  have hbase := fontBase_le
  rw [glyphAddr, and_lowNibble_toNat, BitVec.toNat_ofNat, Config.glyphBytes]
  omega

/-- Settles O39: one write of I each, the sum wrapped and the glyph's address below 0x200. -/
theorem indexWrites : Obligations.IndexWrites := by
  intro nnn x s
  exact ⟨formatNNN_toNat 0xA#4 nnn, formatXKK_familyF_toNat x 0x1E#8, formatXKK_familyF_toNat x 0x29#8,
    setI_completes rfl (addrOf_toNat nnn), setI_completes rfl (add_zextByte_toNat ..),
    setI_completes rfl (glyphAddr_toNat _)⟩

/-! ### The bounds check (20_memory.md rule R52) -/

theorem not_indexInBounds_of_outside {s : State} {last : Nat} (h : 4096 ≤ s.I.toNat + last) :
    ¬indexInBounds s last = true :=
  mt (indexInBounds_iff s last).mp (Nat.not_lt.mpr h)

/-! ### Block stores -/

/-- A block written inside memory is read back byte by byte. -/
theorem Memory.read_writeBlock_add (m : Memory) {vs : List Byte} {a k : Nat} (h : a + vs.length ≤ Config.memSize)
    (hk : k < vs.length) : (m.writeBlock a vs).read (a + k) = vs.getD k 0#8 := by
  rw [Memory.read_writeBlock vs m a (a + k) h, if_pos ⟨Nat.le_add_right a k, Nat.add_lt_add_left hk a⟩,
    Nat.add_sub_cancel_left]

/-- An instruction that ends by storing `n` bytes at I, the last of them inside memory, leaves them there in order, and
leaves all else. -/
theorem writeBlock_completes {i : Instr} {s : State} {vs : List Byte} {n : Nat}
    (hi : exec i s = .next (s.advance.setMem (s.mem.writeBlock (indexAddr s 0) vs))) (hn : vs.length = n)
    (hin : s.I.toNat + n ≤ 4096) :
    ∃ t, exec i s = .next t ∧ (∀ k, k < n → t.mem.read (s.I.toNat + k) = vs.getD k 0#8) ∧
      KeepsMemOutside (indexAddr s 0) n s t ∧ t.I = s.I ∧ WritesNoRegs s t ∧ KeepsTimers s t ∧ KeepsDisplay s t := by
  subst hn
  exact ⟨_, hi, fun _ => Memory.read_writeBlock_add s.mem hin, Memory.read_writeBlock_outside vs s.mem _, rfl,
    writesNoRegs_of_advance .., ⟨rfl, rfl⟩, rfl⟩

theorem exec_ldMemVx_of_outside {x : Nibble} {s : State} (h : 4096 ≤ s.I.toNat + x.toNat) :
    exec (.ldMemVx x) s = .next (s.takeFault .outOfBounds (some (encode (.ldMemVx x)))) :=
  if_neg (not_indexInBounds_of_outside h)

theorem exec_ldMemVx_of_inside {x : Nibble} {s : State} (h : s.I.toNat + x.toNat < 4096) :
    exec (.ldMemVx x) s = .next (s.advance.setMem (s.mem.writeBlock (indexAddr s 0) (s.regBlock x))) :=
  if_pos ((indexInBounds_iff s _).mpr h)

/-- Settles O40: a block store of the x + 1 bytes V0 to Vx, or the fault of the check before it. -/
theorem storeRegistersToMemory : Obligations.StoreRegistersToMemory := by
  intro x s
  refine ⟨formatXKK_familyF_toNat x 0x55#8, fun h => ?outside, fun h => ?inside⟩
  case outside => exact ⟨_, exec_ldMemVx_of_outside h, takeFault_faultTaken s _ _⟩
  case inside =>
    obtain ⟨t, ht, hread, hrest⟩ := writeBlock_completes (exec_ldMemVx_of_inside h) (State.regBlock_length s x) h
    exact ⟨t, ht, fun j hj => (hread j.toNat (Nat.lt_succ_of_le hj)).trans (State.regBlock_getD s x j hj), hrest⟩

theorem exec_ldB_of_outside {x : Nibble} {s : State} (h : 4096 ≤ s.I.toNat + 2) :
    exec (.ldB x) s = .next (s.takeFault .outOfBounds (some (encode (.ldB x)))) :=
  if_neg (not_indexInBounds_of_outside h)

theorem exec_ldB_of_inside {x : Nibble} {s : State} (h : s.I.toNat + 2 < 4096) :
    exec (.ldB x) s = .next (s.advance.setMem (s.mem.writeBlock (indexAddr s 0) (bcdDigits (s.reg x)))) :=
  if_pos ((indexInBounds_iff s _).mpr h)

/-- Each quotient and each digit of a byte fits a byte. -/
theorem bcdDigits_toNat (v : Byte) :
    ((bcdDigits v).getD 0 0#8).toNat = v.toNat / 100 ∧ ((bcdDigits v).getD 1 0#8).toNat = v.toNat / 10 % 10 ∧
      ((bcdDigits v).getD 2 0#8).toNat = v.toNat % 10 := by
  have hv := v.isLt
  exact ⟨Nat.mod_eq_of_lt (by omega), Nat.mod_eq_of_lt (by omega), Nat.mod_eq_of_lt (by omega)⟩

/-- Settles O43: a block store of the three digits, or the fault of the check before it. -/
theorem storeDecimalDigits : Obligations.StoreDecimalDigits := by
  intro x s
  refine ⟨formatXKK_familyF_toNat x 0x33#8, fun h => ?outside, fun h => ?inside⟩
  case outside => exact ⟨_, exec_ldB_of_outside h, takeFault_faultTaken s _ _⟩
  case inside =>
    obtain ⟨t, ht, hread, hrest⟩ := writeBlock_completes (exec_ldB_of_inside h) (bcdDigits_length (s.reg x)) h
    obtain ⟨hundreds, tens, ones⟩ := bcdDigits_toNat (s.reg x)
    have digit (k : Nat) (hk : k < 3) := congrArg BitVec.toNat (hread k hk)
    exact ⟨t, ht, (digit 0 (by decide)).trans hundreds, (digit 1 (by decide)).trans tens,
      (digit 2 (by decide)).trans ones, hrest⟩

/-! ### The block load -/

/-- The registers that a block load up to Vx names, V0 to Vx. -/
def loadedRegs (x : Nibble) : List Nibble := (List.range (x.toNat + 1)).map (BitVec.ofNat 4)

theorem mem_loadedRegs (x j : Nibble) : j ∈ loadedRegs x ↔ j.toNat ≤ x.toNat := by
  simp only [loadedRegs, List.mem_map, List.mem_range, Nat.lt_succ_iff]
  constructor
  · rintro ⟨i, hi, rfl⟩
    exact (BitVec.toNat_ofNat i 4).trans_le ((Nat.mod_le i 16).trans hi)
  · intro h
    exact ⟨j.toNat, h, (BitVec.ofNat_toNat 4 j).trans (BitVec.setWidth_eq j)⟩

theorem exec_ldVxMem_of_outside {x : Nibble} {s : State} (h : 4096 ≤ s.I.toNat + x.toNat) :
    exec (.ldVxMem x) s = .next (s.takeFault .outOfBounds (some (encode (.ldVxMem x)))) :=
  if_neg (not_indexInBounds_of_outside h)

theorem exec_ldVxMem_of_inside {x : Nibble} {s : State} (h : s.I.toNat + x.toNat < 4096) :
    exec (.ldVxMem x) s = .next (s.advance.loadBlock x) :=
  if_pos ((indexInBounds_iff s _).mpr h)

theorem keepsRegsBut_loadBlock (s : State) (x : Nibble) : KeepsRegsBut (loadedRegs x) s (s.advance.loadBlock x) := by
  intro j hj
  rw [State.reg_loadBlock, if_neg (mt (mem_loadedRegs x j).mpr hj), State.advance_reg]

theorem writesRegsOnly_loadBlock (s : State) (x : Nibble) :
    WritesRegsOnly (loadedRegs x) 0 s (s.advance.loadBlock x) := by
  have hregs := keepsRegsBut_loadBlock s x
  rw [State.loadBlock_eq] at hregs ⊢
  exact writesRegsOnly_of_advance 0 hregs

/-- Settles O41: a block load of V0 to Vx from the memory before the step, or the fault of the check before it. -/
theorem loadRegistersFromMemory : Obligations.LoadRegistersFromMemory := by
  intro x s
  refine ⟨formatXKK_familyF_toNat x 0x65#8, fun h => ?outside, fun h => ?inside⟩
  case outside => exact ⟨_, exec_ldVxMem_of_outside h, takeFault_faultTaken s _ _⟩
  case inside =>
    refine ⟨_, loadedRegs x, exec_ldVxMem_of_inside h, mem_loadedRegs x, fun j hj => ?_, writesRegsOnly_loadBlock s x⟩
    rw [State.reg_loadBlock, if_pos hj, State.advance_mem, State.advance_I]

end Sys2Proof.Machine
end

section
/-! PROOFS. The clear, and the sprite draw: the bits of a sprite against the pixels a draw covers, the surface and the
flag after a draw, and its bounds check (43_display.md rules R180 to R184). -/

namespace Sys2Proof.Machine

/-! ### The clear (rule R184) -/

/-- Settles O45: the advanced state with the cleared surface, of which no pixel is set. -/
theorem clearUnsetsEveryPixel : Obligations.ClearUnsetsEveryPixel := by
  intro s
  exact ⟨rfl, s.advance.setFb Frame.clear, rfl, Frame.pixel_clear, rfl, writesNoRegs_of_advance .., ⟨rfl, rfl⟩,
    fun _ => rfl⟩

/-! ### Where the bits of a sprite land (rule R183) -/

theorem landing_wrap_eq_some_iff (Y X Y' X' : Nat) :
    landing .wrap Y X = some (Y', X') ↔ Y' = Y % 32 ∧ X' = X % 64 := by
  simp only [landing, Option.some.injEq, Prod.mk.injEq, eq_comm]

theorem landing_clip_eq_some_iff (Y X Y' X' : Nat) :
    landing .clip Y X = some (Y', X') ↔ (Y' < 32 ∧ X' < 64) ∧ Y' = Y ∧ X' = X := by
  simp only [landing, Option.ite_none_right_eq_some, Option.some.injEq, Prod.mk.injEq]
  omega

/-- A bit lands on a pixel of the surface, or nowhere. -/
theorem onSurface_of_landing {edge : SpriteEdge} {Y X Y' X' : Nat} (h : landing edge Y X = some (Y', X')) :
    Y' < Config.dispH ∧ X' < Config.dispW := by
  cases edge with
  | wrap =>
    obtain ⟨rfl, rfl⟩ := (landing_wrap_eq_some_iff Y X Y' X').mp h
    exact ⟨Nat.mod_lt _ (by decide), Nat.mod_lt _ (by decide)⟩
  | clip => exact ((landing_clip_eq_some_iff Y X Y' X').mp h).1

/-- A sprite given as a list of bytes and one given byte by byte cover the same pixels of the surface. -/
theorem spriteCovers_iff_covers {edge : SpriteEdge} {ox oy n : Nat} {bs : List Byte} {byte : Nat → Byte}
    (hlen : bs.length = n) (hbyte : ∀ r, r < n → bs.getD r 0#8 = byte r) (Y X : Nat) :
    SpriteCovers edge ox oy bs Y X ↔ Y < Config.dispH ∧ X < Config.dispW ∧ Covers edge ox oy n byte Y X := by
  subst hlen
  constructor
  · rintro ⟨r, k, hr, hk, hbit, hland⟩
    obtain ⟨hY, hX⟩ := onSurface_of_landing hland
    refine ⟨hY, hX, r, k, hr, hk, hbyte r hr ▸ hbit, ?_⟩
    cases edge with
    | wrap => exact ((landing_wrap_eq_some_iff ..).mp hland).symm
    | clip => exact ((landing_clip_eq_some_iff ..).mp hland).2.symm
  · rintro ⟨hY, hX, r, k, hr, hk, hbit, hland⟩
    refine ⟨r, k, hr, hk, (hbyte r hr).symm ▸ hbit, ?_⟩
    cases edge with
    | wrap => exact (landing_wrap_eq_some_iff ..).mpr hland.symm
    | clip => exact (landing_clip_eq_some_iff ..).mpr ⟨⟨hY, hX⟩, hland.symm⟩

/-! ### The surface and the flag after a draw (rule R182) -/

/-- The surface and the collision flag that DRW Vx, Vy, n computes from the state `s`. -/
def drawing (x y n : Nibble) (s : State) : Drawing :=
  drawSprite Config.spriteEdge s.fb (s.reg x) (s.reg y) (s.mem.readBlock (indexAddr s 0) n.toNat)

theorem drawFrom_eq (x y n : Nibble) (s : State) :
    drawFrom Config.spriteEdge x y n s = (s.advance.setFb (drawing x y n s).fb).setVF (drawing x y n s).collided := rfl

/-- The pixels that DRW covers are those of the list of bytes it reads. -/
theorem drawCovers_iff_spriteCovers (x y n : Nibble) (s : State) (Y X : Nat) :
    DrawCovers x y n s Y X ↔ SpriteCovers Config.spriteEdge ((s.reg x).toNat % Config.dispW)
      ((s.reg y).toNat % Config.dispH) (s.mem.readBlock (indexAddr s 0) n.toNat) Y X :=
  (spriteCovers_iff_covers (readBlock_length ..) (fun r hr => readBlock_getD _ _ _ r hr) Y X).symm

/-- As many rows as a nibble counts. -/
theorem readBlock_length_le (n : Nibble) (m : Memory) (a : Nat) : (m.readBlock a n.toNat).length ≤ 16 :=
  (readBlock_length ..).trans_le n.isLt.le

open Classical in
theorem pixel_drawing (x y n : Nibble) (s : State) (Y X : Nat) :
    Frame.pixel (drawing x y n s).fb Y X = (Frame.pixel s.fb Y X ^^ decide (DrawCovers x y n s Y X)) := by
  simp only [drawCovers_iff_spriteCovers]
  exact (drawRows_spec _ _ _ (readBlock_length_le n _ _) _ _).1 Y X

theorem pixel_drawing_of_covered {x y n : Nibble} {s : State} {Y X : Nat} (h : DrawCovers x y n s Y X) :
    Frame.pixel (drawing x y n s).fb Y X = !Frame.pixel s.fb Y X := by
  simp [pixel_drawing, h]

theorem pixel_drawing_of_not_covered {x y n : Nibble} {s : State} {Y X : Nat} (h : ¬DrawCovers x y n s Y X) :
    Frame.pixel (drawing x y n s).fb Y X = Frame.pixel s.fb Y X := by
  simp [pixel_drawing, h]

theorem drawing_collided_iff (x y n : Nibble) (s : State) :
    (drawing x y n s).collided = true ↔ ∃ Y X, DrawCovers x y n s Y X ∧ Frame.pixel s.fb Y X = true := by
  have hspec := drawRows_spec Config.spriteEdge ((s.reg x).toNat % Config.dispW) _
    (readBlock_length_le n s.mem (indexAddr s 0)) ((s.reg y).toNat % Config.dispH) ⟨s.fb, false⟩
  simp only [drawCovers_iff_spriteCovers, drawing, drawSprite, hspec.2, Bool.false_or, decide_eq_true_eq]

/-- VF after a flag write is 1 or 0, and it tells which by what the flag means. -/
theorem reg_setVF_cases {s : State} {flag : Bool} {P : Prop} (h : flag = true ↔ P) :
    (s.setVF flag).reg 0xF#4 = 1#8 ∧ P ∨ (s.setVF flag).reg 0xF#4 = 0#8 ∧ ¬P := by
  rw [State.reg_setVF, if_pos rfl, ← h]
  cases flag with
  | false => exact .inr ⟨rfl, nofun⟩
  | true => exact .inl ⟨rfl, rfl⟩

theorem keepsRegsBut_setVF (s : State) (flag : Bool) : KeepsRegsBut [0xF#4] s (s.setVF flag) :=
  fun _ hj => State.reg_setReg_of_ne _ _ (List.ne_of_not_mem_cons hj)

/-! ### The words and the bounds check -/

/-- A word of family D that ends in 0 is in no row but BRK's: the decoder has none for it. -/
theorem not_inRow_of_draw_of_no_rows {w : Word} (hfam : fieldFamily w = 0xD#4) (hn : fieldN w = 0#4) {i : Instr}
    (hi : i ≠ .brk) : ¬InRow i w := by
  intro h
  obtain ⟨j, hj, -⟩ := h.decodeRow_sameRow hi
  simp [decodeRow, hfam, hn] at hj

/-- A sprite of at least one row ends n - 1 bytes after its first byte. -/
theorem index_add_rows_sub_one (s : State) {n : Nibble} (hn : n ≠ 0#4) :
    s.I.toNat + n.toNat - 1 = s.I.toNat + (n.toNat - 1) :=
  Nat.add_sub_assoc (Nat.pos_of_ne_zero (BitVec.toNat_ne_iff_ne.mpr hn)) _

theorem exec_drw_of_outside (x y : Nibble) {n : Nibble} {s : State} (hn : n ≠ 0#4)
    (h : 4096 ≤ s.I.toNat + n.toNat - 1) :
    exec (.drw x y n) s = .next (s.takeFault .outOfBounds (some (encode (.drw x y n)))) :=
  if_neg (not_indexInBounds_of_outside (index_add_rows_sub_one s hn ▸ h))

theorem exec_drw_of_inside (x y : Nibble) {n : Nibble} {s : State} (hn : n ≠ 0#4)
    (h : s.I.toNat + n.toNat - 1 < 4096) :
    exec (.drw x y n) s = .next (drawFrom Config.spriteEdge x y n s) :=
  if_pos ((indexInBounds_iff s _).mpr (index_add_rows_sub_one s hn ▸ h))

/-- Settles O46: the fault of the check, or the surface and the flag that the draw computes. -/
theorem drawFlipsExactlyTheCoveredPixels : Obligations.DrawFlipsExactlyTheCoveredPixels := by
  intro x y n s hn
  refine ⟨formatXYN_toNat 0xD#4 x y n, fun _ hfam h0 _ hi => not_inRow_of_draw_of_no_rows hfam h0 hi,
    fun h => ?outside, fun h => ?inside⟩
  case outside => exact ⟨_, exec_drw_of_outside x y hn h, takeFault_faultTaken s _ _⟩
  case inside =>
    refine ⟨_, exec_drw_of_inside x y hn h, ?_⟩
    rw [drawFrom_eq]
    exact ⟨fun _ _ => pixel_drawing_of_covered, fun _ _ => pixel_drawing_of_not_covered,
      reg_setVF_cases (drawing_collided_iff x y n s), ⟨rfl, rfl⟩, rfl, keepsRegsBut_setVF (s.advance.setFb _) _,
      rfl, ⟨rfl, rfl⟩, ⟨rfl, rfl⟩, ⟨rfl, rfl⟩, fun _ => rfl, rfl⟩

end Sys2Proof.Machine
end

section
/-! PROOFS. The key skips, the wait for a key and the timer transfers: what the pressed keys of a state are, and the
outcome of each instruction that reads a key (44_input_timers.md rules R200 to R207). -/

namespace Sys2Proof.Machine

/-! ### The words -/

/-- A word with a register and a byte, the byte next to the family as the opcode map gives them. -/
theorem formatXKK_toNat_byte_first (f x : Nibble) (kk : Byte) :
    (formatXKK f x kk).toNat = f.toNat * 4096 + kk.toNat + 256 * x.toNat := by
  rw [formatXKK_toNat, Nat.add_right_comm]

/-! ### The keys of a state -/

theorem State.keyDown_val (s : State) (k : Fin 16) : s.keyDown k.val = s.key[k] := by
  simp [State.keyDown]

theorem State.val_mem_pressed (s : State) (k : Fin 16) : k.val ∈ s.pressed ↔ s.key[k] = true := by
  rw [State.mem_pressed, State.keyDown_val, and_iff_right k.isLt]

theorem State.pressed_eq_nil_iff (s : State) : s.pressed = [] ↔ ∀ k : Fin 16, s.key[k] = false := by
  simp only [List.eq_nil_iff_forall_not_mem, ← Bool.not_eq_true, ← State.val_mem_pressed]
  exact ⟨fun h k => h k.val, fun h j hj => h ⟨j, ((State.mem_pressed s j).mp hj).1⟩ hj⟩

/-- With a key pressed, the key that a draw chooses is a pressed one (rule R203). -/
theorem State.exists_key_eq_drawKeyFrom {s : State} (h : s.pressed ≠ []) (draw : Nat) :
    ∃ k : Fin 16, s.key[k] = true ∧ drawKeyFrom s.pressed draw = k.val := by
  have hmem := drawKeyFrom_mem h draw
  have hlt := ((State.mem_pressed s _).mp hmem).1
  exact ⟨⟨_, hlt⟩, (State.val_mem_pressed s ⟨_, hlt⟩).mp hmem, rfl⟩

/-! ### Key skips (rules R200 and R201) -/

theorem exec_skp_of_no_key {x : Nibble} {s : State} (h : 16 ≤ (s.reg x).toNat) :
    exec (.skp x) s = .next (s.takeFault .outOfBounds (some (encode (.skp x)))) :=
  if_pos h

theorem exec_sknp_of_no_key {x : Nibble} {s : State} (h : 16 ≤ (s.reg x).toNat) :
    exec (.sknp x) s = .next (s.takeFault .outOfBounds (some (encode (.sknp x)))) :=
  if_pos h

theorem exec_skp_of_key {x : Nibble} {s : State} {k : Fin 16} (h : (s.reg x).toNat = k.val) :
    exec (.skp x) s = skipIf s.key[k] s := by
  rw [← State.keyDown_val, ← h]
  exact if_neg (Nat.not_le.mpr (h ▸ k.isLt))

theorem exec_sknp_of_key {x : Nibble} {s : State} {k : Fin 16} (h : (s.reg x).toNat = k.val) :
    exec (.sknp x) s = skipIf (!s.key[k]) s := by
  rw [← State.keyDown_val, ← h]
  exact if_neg (Nat.not_le.mpr (h ▸ k.isLt))

theorem skip_distance_not (b : Bool) : (if (!b) = true then 4#16 else 2#16) = if b = true then 2#16 else 4#16 := by
  cases b <;> rfl

/-- Settles O48: the fault of the check on the index, or a conditional skip on the key it names. -/
theorem keySkips : Obligations.KeySkips := by
  intro x s
  refine ⟨formatXKK_toNat_byte_first 0xE#4 x 0x9E#8, formatXKK_toNat_byte_first 0xE#4 x 0xA1#8, fun h => ?noKey,
    fun k hk => ?key⟩
  case noKey =>
    exact ⟨⟨_, exec_skp_of_no_key h, takeFault_faultTaken s _ _⟩,
      ⟨_, exec_sknp_of_no_key h, takeFault_faultTaken s _ _⟩⟩
  case key =>
    rw [exec_skp_of_key hk, exec_sknp_of_key hk]
    exact ⟨skipIf_completes s rfl, skipIf_completes s (skip_distance_not s.key[k])⟩

/-! ### Wait for key (rules R202 and R203) -/

theorem exec_ldVxK_of_none_pressed (x : Nibble) {s : State} (h : s.pressed = []) :
    exec (.ldVxK x) s = .next (s.awaitKey x) := by
  simp only [exec, execLdVxK, h]

theorem exec_ldVxK_of_pressed (x : Nibble) {s : State} (h : s.pressed ≠ []) :
    exec (.ldVxK x) s =
      .next (s.advance.countDraw.setReg x (BitVec.ofNat 8 (drawKeyFrom s.pressed (Config.drawKey s.draws)))) := by
  obtain ⟨k, ks, hks⟩ := List.exists_cons_of_ne_nil h
  simp only [exec, execLdVxK, hks]

/-- The index of a key fits a byte. -/
theorem key_byte_toNat (k : Fin 16) : (BitVec.ofNat 8 k.val).toNat = k.val :=
  Nat.mod_eq_of_lt (k.isLt.trans (by decide))

/-- Settles O49: the suspended state, or one register write of the drawn key and the draw counted. -/
theorem waitForKey : Obligations.WaitForKey := by
  intro x s
  refine ⟨formatXKK_familyF_toNat x 0x0A#8, fun h => ?suspended, fun ⟨j, hj⟩ => ?stored⟩
  case suspended =>
    exact ⟨_, exec_ldVxK_of_none_pressed x ((State.pressed_eq_nil_iff s).mpr h), rfl, rfl, rfl, fun _ _ => rfl, rfl,
      ⟨rfl, rfl⟩, ⟨rfl, rfl⟩, ⟨rfl, rfl⟩, rfl, fun _ => rfl, rfl⟩
  case stored =>
    have hne : s.pressed ≠ [] := List.ne_nil_of_mem ((State.val_mem_pressed s j).mpr hj)
    obtain ⟨k, hk, hdraw⟩ := State.exists_key_eq_drawKeyFrom hne (Config.drawKey s.draws)
    have hexec := exec_ldVxK_of_pressed x hne
    rw [hdraw] at hexec
    refine ⟨_, k, hexec, hk, ?_,
      writesRegsOnly_of_advance 1 (keepsRegsBut_setReg s x (BitVec.ofNat 8 k.val))⟩
    rw [State.reg_setReg_same, key_byte_toNat]

/-! ### Timer transfers (rules R205 to R207) -/

/-- Settles O51: one write each, of a register or of one timer. -/
theorem timerTransfers : Obligations.TimerTransfers := by
  intro x s
  exact ⟨formatXKK_familyF_toNat x 0x07#8, formatXKK_familyF_toNat x 0x15#8, formatXKK_familyF_toNat x 0x18#8,
    ⟨_, rfl, State.reg_setReg_same .., writesRegsOnly_setReg s x s.DT⟩,
    ⟨_, rfl, rfl, rfl, rfl, writesNoRegs_of_advance .., rfl, fun _ => rfl⟩,
    ⟨_, rfl, rfl, rfl, rfl, writesNoRegs_of_advance .., rfl, fun _ => rfl⟩⟩

end Sys2Proof.Machine
end

section
/-! PROOFS. Every faulting step takes its fault with the fetched word and commits nothing else (60_exceptions.md rule R221):
the word fetched is the word of the instruction decoded from it (30_encoding.md rules R72 and R76). -/

namespace Sys2Proof.Machine

/-! ### A decoded word is its instruction's word -/

theorem formatXYN_of_fields {w : Word} {f n : Nibble} (hf : fieldFamily w = f) (hn : fieldN w = n) :
    formatXYN f (fieldX w) (fieldY w) n = w :=
  hf ▸ hn ▸ formatXYN_fields w

theorem formatXKK_of_fields {w : Word} {f : Nibble} {kk : Byte} (hf : fieldFamily w = f) (hkk : fieldKK w = kk) :
    formatXKK f (fieldX w) kk = w :=
  hf ▸ hkk ▸ formatXKK_fields w

theorem formatNNN_of_fields {w : Word} {f : Nibble} (hf : fieldFamily w = f) : formatNNN f (fieldNNN w) = w :=
  hf ▸ formatNNN_fields w

/-- The instruction this answer of a decoder gives for `w`, if any, has the word `w`. The decoder is a chain of tests, so
the lemmas below walk it arm by arm. -/
def EncodesBack (w : Word) (o : Option Instr) : Prop := ∀ i, o = some i → encode i = w

theorem EncodesBack.none {w : Word} : EncodesBack w none := nofun

theorem EncodesBack.some {w : Word} {i : Instr} (h : encode i = w) : EncodesBack w (some i) :=
  fun _ hi => Option.some.inj hi ▸ h

theorem EncodesBack.ite {w : Word} {c : Prop} [Decidable c] {a b : Option Instr} (ha : c → EncodesBack w a)
    (hb : ¬c → EncodesBack w b) : EncodesBack w (if c then a else b) := by
  split
  · exact ha ‹c›
  · exact hb ‹¬c›

theorem encodesBack_decodeArith {w : Word} (hf : fieldFamily w = 0x8#4) : EncodesBack w (decodeArith w) := by
  unfold decodeArith
  iterate 9 refine .ite (fun hn => .some (formatXYN_of_fields hf hn)) fun _ => ?_
  exact .none

theorem encodesBack_decodeKeySkip {w : Word} (hf : fieldFamily w = 0xE#4) : EncodesBack w (decodeKeySkip w) := by
  unfold decodeKeySkip
  iterate 2 refine .ite (fun hkk => .some (formatXKK_of_fields hf hkk)) fun _ => ?_
  exact .none

theorem encodesBack_decodeMisc {w : Word} (hf : fieldFamily w = 0xF#4) : EncodesBack w (decodeMisc w) := by
  unfold decodeMisc
  iterate 9 refine .ite (fun hkk => .some (formatXKK_of_fields hf hkk)) fun _ => ?_
  exact .none

/-- The last arm has no test of its own: it is family 15 because the tests before it rule out every other nibble. -/
theorem encodesBack_decodeRow (w : Word) : EncodesBack w (decodeRow w) := by
  unfold decodeRow
  refine .ite (fun _ => .ite (fun h => .some h.symm) fun _ => .ite (fun h => .some h.symm) fun _ => .none) fun h0 => ?_
  refine .ite (fun hf => .some (formatNNN_of_fields hf)) fun h1 => ?_
  refine .ite (fun hf => .some (formatNNN_of_fields hf)) fun h2 => ?_
  refine .ite (fun hf => .some (formatXKK_of_fields hf rfl)) fun h3 => ?_
  refine .ite (fun hf => .some (formatXKK_of_fields hf rfl)) fun h4 => ?_
  refine .ite (fun hf => .ite (fun hn => .some (formatXYN_of_fields hf hn)) fun _ => .none) fun h5 => ?_
  refine .ite (fun hf => .some (formatXKK_of_fields hf rfl)) fun h6 => ?_
  refine .ite (fun hf => .some (formatXKK_of_fields hf rfl)) fun h7 => ?_
  refine .ite encodesBack_decodeArith fun h8 => ?_
  refine .ite (fun hf => .ite (fun hn => .some (formatXYN_of_fields hf hn)) fun _ => .none) fun h9 => ?_
  refine .ite (fun hf => .some (formatNNN_of_fields hf)) fun hA => ?_
  refine .ite (fun hf => .some (formatNNN_of_fields hf)) fun hB => ?_
  refine .ite (fun hf => .some (formatXKK_of_fields hf rfl)) fun hC => ?_
  refine .ite (fun hf => .ite (fun _ => .none) fun _ => .some (formatXYN_of_fields hf rfl)) fun hD => ?_
  refine .ite encodesBack_decodeKeySkip fun hE => ?_
  have hf : fieldFamily w = 0xF#4 := by bv_omega
  exact encodesBack_decodeMisc hf

theorem encode_of_decodeWord {w : Word} {i : Instr} (h : decodeWord w = .ok i) : encode i = w := by
  unfold decodeWord at h
  split at h
  next j hj =>
    cases h
    exact encodesBack_decodeRow w i hj
  next =>
    split at h
    next hbrk =>
      cases h
      exact hbrk.symm
    next => cases h

/-! ### The faulting step -/

/-- A step that leaves the latch set is the taking of a fault with the fetched word: at the fetch, at the decoder, or by the
decoded instruction. -/
theorem step_eq_takeFault {s t : State} {r : FaultRecord} (h : step s = .next t) (hr : t.fault = some r) :
    t = s.takeFault r.kind (fetchWord s) := by
  obtain ⟨hs, ⟨hw, rfl⟩ | ⟨w, e, hw, -, rfl⟩ | ⟨w, i, hw, hdec, hexec⟩⟩ := step_cases h
  · cases hr
    rw [hw]
  · cases hr
    rw [hw]
  · obtain ⟨k, rfl⟩ | ⟨x, -, -, rfl⟩ | hdone := exec_cases hexec
    · cases hr
      rw [hw, encode_of_decodeWord hdec]
    · simp [hs] at hr
    · simp [hdone.fault, hs] at hr

/-- Settles O11: the step is one fault taken, and a latched machine repeats its fault. -/
theorem faultsArePreciseAndCommitNothing : Obligations.FaultsArePreciseAndCommitNothing := by
  intro s t r hstep hr
  have ht := step_eq_takeFault hstep hr
  have hword : r.word = fetchWord s := by
    rw [ht] at hr
    exact congrArg FaultRecord.word (Option.some.inj hr).symm
  have htaken : FaultTaken r.kind r.word s t := by
    rw [hword, ht]
    exact takeFault_faultTaken s _ _
  exact ⟨htaken, hword, step_of_latched hr⟩

end Sys2Proof.Machine
end

section
/-! PROOFS. The host's tick and set_key (60_exceptions.md rules R230 and R233). -/

namespace Sys2Proof.Machine

/-- The countdown is the truncated subtraction of numbers: it does not wrap at 0. -/
theorem countDown_toNat (v : Byte) : (countDown v).toNat = v.toNat - 1 := by
  unfold countDown
  split
  next h => exact BitVec.toNat_sub_of_le h
  next h => omega

/-- Settles O52: a tick writes the two timers, each its countdown. -/
theorem tickCountsBothTimersDown : Obligations.TickCountsBothTimersDown := by
  intro s
  exact ⟨s.tick, rfl, countDown_toNat s.DT, countDown_toNat s.ST, rfl⟩

theorem hostOp_setKey_of_no_key {s : State} {k : Nat} {pressed : Bool} (h : 16 ≤ k) :
    hostOp (.setKey k pressed) s = (s, .refused) := by
  have hnone : s.setKey k pressed = none := dif_neg (Nat.not_lt.mpr h)
  simp only [hostOp, hnone]

theorem hostOp_setKey_of_key {s : State} {k : Nat} {pressed : Bool} (h : k < 16) :
    hostOp (.setKey k pressed) s = ({ s with key := s.key.set k pressed h }, .done) := by
  have hsome : s.setKey k pressed = some { s with key := s.key.set k pressed h } := dif_pos h
  simp only [hostOp, hsome]

/-- Settles O54: the split is the check on the index; a key that is set reads as the value set. -/
theorem setKeySetsOneKey : Obligations.SetKeySetsOneKey := by
  intro s k pressed
  refine ⟨hostOp_setKey_of_no_key, fun h => ⟨_, hostOp_setKey_of_key h, fun j => ?_, rfl⟩⟩
  simp only [eq_comm (a := j.val)]
  exact Vector.getElem_set h j.isLt

end Sys2Proof.Machine
end

section
/-! PROOFS. The decoder and the encoder undo each other, a word has one row at most, and the words without a row are the
listed illegal space (30_encoding.md rules R71 to R80). -/

namespace Sys2Proof.Machine

/-! ### Encoding, then decoding -/

/-- A well-formed instruction of rows 2 to 35 comes back from its word: the word's fields are its operands, and the
decoder dispatches on the fixed ones. -/
theorem decodeRow_encode {i : Instr} (hwf : i.wf = true) (hi : i ≠ .brk) : decodeRow (encode i) = some i := by
  cases i with
  | brk => exact absurd rfl hi
  | cls | ret => rfl
  | jp | call | ldI | jpV0 => simp [encode, decodeRow]
  | seImm | sneImm | ldImm | addImm | rnd => simp [encode, decodeRow]
  | seReg | sneReg => simp [encode, decodeRow]
  | ldReg | orReg | andReg | xorReg | addReg | subReg | shr | subnReg | shl => simp [encode, decodeRow, decodeArith]
  | drw x y n =>
    have hn : n ≠ 0#4 := by simpa [Instr.wf] using hwf
    simp [encode, decodeRow, hn]
  | skp | sknp => simp [encode, decodeRow, decodeKeySkip]
  | ldVxDT | ldVxK | ldDTVx | ldSTVx | addI | ldF | ldB | ldMemVx | ldVxMem => simp [encode, decodeRow, decodeMisc]

theorem decodeWord_of_decodeRow {w : Word} {i : Instr} (h : decodeRow w = some i) : decodeWord w = .ok i := by
  simp only [decodeWord, h]

theorem decodeWord_breakWord : decodeWord breakWord = .ok .brk := by
  simp only [decodeWord, decodeRow_breakWord, if_true]

theorem decodeWord_encode {i : Instr} (hwf : i.wf = true) : decodeWord (encode i) = .ok i := by
  by_cases hi : i = .brk
  · subst hi
    exact decodeWord_breakWord
  · exact decodeWord_of_decodeRow (decodeRow_encode hwf hi)

/-- Bytes decode as the word they make. -/
theorem decode_of_decodeWord {hi lo : Byte} {i : Instr} (rest : List Byte) (h : decodeWord (concat hi lo) = .ok i) :
    decode (hi :: lo :: rest) = .ok (i, rest) := by
  simp only [decode, h]

/-- Settles O1: the word's fields are the operands, and the two bytes put together are the word again. -/
theorem decodeOfEncode : Obligations.DecodeOfEncode := by
  intro i rest hwf
  have hword := decodeWord_encode hwf
  refine ⟨hword, decode_of_decodeWord rest ?_⟩
  rw [concat_hiByte_loByte, hword]

/-! ### Decoding, then encoding -/

theorem decodeWord_cases {w : Word} {i : Instr} (h : decodeWord w = .ok i) :
    decodeRow w = some i ∨ i = .brk ∧ w = breakWord := by
  unfold decodeWord at h
  split at h
  next hrow =>
    cases h
    exact .inl hrow
  next =>
    split at h
    next hw =>
      cases h
      exact .inr ⟨rfl, hw⟩
    next => cases h

/-- The word of a draw of no rows is in no row. -/
theorem decodeRow_drawOfNoRows (x y : Nibble) : decodeRow (encode (.drw x y 0#4)) = none := by
  simp [encode, decodeRow]

/-- The decoder answers no draw of no rows; the other rows have no operand condition. -/
theorem wf_of_decodeWord {w : Word} {i : Instr} (h : decodeWord w = .ok i) : i.wf = true := by
  cases i with
  | drw x y n =>
    rw [← encode_of_decodeWord h] at h
    obtain hrow | ⟨hbrk, -⟩ := decodeWord_cases h
    · have hn : n ≠ 0#4 := by
        rintro rfl
        simp [decodeRow_drawOfNoRows] at hrow
      simpa [Instr.wf] using hn
    · cases hbrk
  | _ => rfl

/-- Settles O2: no test of the decoder loses a bit of the word, and DRW is answered only where n is not 0. -/
theorem encodeOfDecode : Obligations.EncodeOfDecode :=
  fun _ _ h => ⟨wf_of_decodeWord h, encode_of_decodeWord h⟩

/-! ### The rows of the opcode map -/

theorem encode_and_rowMask (i : Instr) : encode i &&& rowMask i = rowMatch i := by
  cases i with
  | brk => exact Laws.RowPattern.brk
  | cls | ret => rfl
  | jp | call | ldI | jpV0 => exact (Laws.RowPattern.mask_nnn ..).trans rfl
  | seImm | sneImm | ldImm | addImm | rnd => exact (Laws.RowPattern.mask_xkk ..).trans rfl
  | drw => exact Laws.RowPattern.drw ..
  | seReg | ldReg | orReg | andReg | xorReg | addReg | subReg | shr | subnReg | shl | sneReg =>
    exact (Laws.RowPattern.mask_xys ..).trans rfl
  | skp | sknp | ldVxDT | ldVxK | ldDTVx | ldSTVx | addI | ldF | ldB | ldMemVx | ldVxMem =>
    exact (Laws.RowPattern.mask_xss ..).trans rfl

/-- A word is in the row of the instruction it decodes to. -/
theorem inRow_of_decodeWord {w : Word} {i : Instr} (h : decodeWord w = .ok i) : InRow i w := by
  rw [← encode_of_decodeWord h]
  refine ⟨encode_and_rowMask i, ?_⟩
  rintro x y n rfl
  have hn : n ≠ 0#4 := by simpa [Instr.wf] using wf_of_decodeWord h
  simpa [encode] using hn

/-- A word of any row, BRK's included, decodes to an instruction of that row. -/
theorem InRow.decodeWord_sameRow {i : Instr} {w : Word} (h : InRow i w) : ∃ j, decodeWord w = .ok j ∧ SameRow i j := by
  by_cases hi : i = .brk
  · subst hi
    rw [h.eq_rowMatch rfl]
    exact ⟨.brk, decodeWord_breakWord, rfl, rfl⟩
  · obtain ⟨j, hj, hrow⟩ := h.decodeRow_sameRow hi
    exact ⟨j, decodeWord_of_decodeRow hj, hrow⟩

theorem InRow.sameRow {i j : Instr} {w : Word} (hi : InRow i w) (hj : InRow j w) : SameRow i j := by
  obtain ⟨k, hk, himask, himatch⟩ := hi.decodeWord_sameRow
  obtain ⟨l, hl, hjmask, hjmatch⟩ := hj.decodeWord_sameRow
  cases hk.symm.trans hl
  exact ⟨himask.trans hjmask.symm, himatch.trans hjmatch.symm⟩

/-- The decoder rejects a word in one way. -/
theorem decodeWord_ok_or_illegal (w : Word) : (∃ i, decodeWord w = .ok i) ∨ decodeWord w = .error (.illegal w) := by
  unfold decodeWord
  split
  · exact .inl ⟨_, rfl⟩
  · split
    · exact .inl ⟨_, rfl⟩
    · exact .inr rfl

/-- Settles O4: two rows of one word are both the row of what it decodes to. -/
theorem oneRowMatchesAndDecodes : Obligations.OneRowMatchesAndDecodes := by
  intro w
  refine ⟨fun _ _ => InRow.sameRow, fun _ => InRow.decodeWord_sameRow, fun _ => inRow_of_decodeWord, fun hnone => ?_⟩
  obtain ⟨i, hi⟩ | hillegal := decodeWord_ok_or_illegal w
  · exact absurd (inRow_of_decodeWord hi) (hnone i)
  · exact hillegal

/-! ### The illegal space -/

theorem ite_some_eq_none_iff {c : Prop} [Decidable c] {i : Instr} {o : Option Instr} :
    (if c then some i else o) = none ↔ ¬c ∧ o = none := by
  by_cases h : c <;> simp [h]

theorem decodeArith_eq_none_iff (w : Word) :
    decodeArith w = none ↔ fieldN w ∈ [0x8#4, 0x9#4, 0xA#4, 0xB#4, 0xC#4, 0xD#4, 0xF#4] := by
  simp only [decodeArith, ite_some_eq_none_iff]
  generalize fieldN w = n
  revert n
  decide

theorem decodeKeySkip_eq_none_iff (w : Word) : decodeKeySkip w = none ↔ fieldKK w ∉ [0x9E#8, 0xA1#8] := by
  simp [decodeKeySkip, ite_some_eq_none_iff]

theorem decodeMisc_eq_none_iff (w : Word) :
    decodeMisc w = none ↔
      fieldKK w ∉ [0x07#8, 0x0A#8, 0x15#8, 0x18#8, 0x1E#8, 0x29#8, 0x33#8, 0x55#8, 0x65#8] := by
  simp [decodeMisc, ite_some_eq_none_iff]

/-- Family by family, the decoder has no row exactly where the specification lists illegal words. -/
theorem decodeRow_eq_none_iff (w : Word) : decodeRow w = none ↔ IllegalSpace w := by
  simp only [decodeRow, IllegalSpace, ← decodeArith_eq_none_iff, ← decodeKeySkip_eq_none_iff, ← decodeMisc_eq_none_iff]
  generalize fieldFamily w = f
  obtain ⟨f⟩ := f
  fin_cases f <;> simp [ite_some_eq_none_iff]

theorem decodeWord_eq_illegal_iff (w : Word) :
    decodeWord w = .error (.illegal w) ↔ w ≠ breakWord ∧ decodeRow w = none := by
  unfold decodeWord
  split
  next i hrow => simp [hrow]
  next hrow => simp [hrow]

/-- Settles O3: a word is rejected when the decoder has no row for it and it is not BREAK_WORD, and it has no row
exactly for the listed words. -/
theorem illegalSpaceIsExact : Obligations.IllegalSpaceIsExact := by
  intro w
  rw [decodeWord_eq_illegal_iff, decodeRow_eq_none_iff]

/-- Settles O6: the decoder, run on each word. -/
theorem sampleWordsDecode : Obligations.SampleWordsDecode := by
  unfold Obligations.SampleWordsDecode
  decide

end Sys2Proof.Machine
end

section
/-! PROOFS. An instruction's meaning in three parts, its own fault, its suspension and its completion, tied to `exec`,
and what a completion leaves unchanged (40_step_and_control.md rules R100, R104 and R105). -/

namespace Sys2Proof.Machine

/-! ### The three parts -/

/-- The fault that the checks of an instruction raise before it writes anything (60_exceptions.md rule R220). -/
def ownFault (i : Instr) (s : State) : Option Fault :=
  match i with
  | .call _ => if 16 ≤ s.sp.toNat then some .stackOverflow else none
  | .ret => if s.sp = 0#8 then some .stackUnderflow else none
  | .ldMemVx x | .ldVxMem x => if indexInBounds s x.toNat then none else some .outOfBounds
  | .ldB _ => if indexInBounds s 2 then none else some .outOfBounds
  | .drw _ _ n => if indexInBounds s (n.toNat - 1) then none else some .outOfBounds
  | .skp x | .sknp x => if 16 ≤ (s.reg x).toNat then some .outOfBounds else none
  | _ => none

/-- The register that an instruction suspends for: LD Vx, K with no key pressed (44_input_timers.md rule R202). -/
def suspension (i : Instr) (s : State) : Option Nibble :=
  match i with
  | .ldVxK x => if s.pressed = [] then some x else none
  | _ => none

/-- The pc after a skip from `s` (40_step_and_control.md rule R115). -/
def skipTarget (taken : Bool) (s : State) : Word := if taken then s.pc + 2#16 + 2#16 else s.pc + 2#16

/-- The state after an instruction that neither faults nor suspends. -/
def completion (i : Instr) (s : State) : State :=
  match i with
  | .brk => s.advance.halt
  | .cls => s.advance.setFb Frame.clear
  | .ret => s.advance.dropTop.setPc (s.stack[s.sp.toNat - 1]?.getD 0#16)
  | .jp nnn => s.advance.setPc (addrOf nnn)
  | .call nnn => (s.advance.push (s.pc + 2#16)).setPc (addrOf nnn)
  | .seImm x kk => s.advance.setPc (skipTarget (s.reg x == kk) s)
  | .sneImm x kk => s.advance.setPc (skipTarget (s.reg x != kk) s)
  | .seReg x y => s.advance.setPc (skipTarget (s.reg x == s.reg y) s)
  | .ldImm x kk => s.advance.setReg x kk
  | .addImm x kk => s.advance.setReg x (s.reg x + kk)
  | .ldReg x y => s.advance.setReg x (s.reg y)
  | .orReg x y => s.advance.writeWithFlag x (s.reg x ||| s.reg y) false
  | .andReg x y => s.advance.writeWithFlag x (s.reg x &&& s.reg y) false
  | .xorReg x y => s.advance.writeWithFlag x (s.reg x ^^^ s.reg y) false
  | .addReg x y => s.advance.writeWithFlag x (s.reg x + s.reg y) (carryOut (s.reg x) (s.reg y))
  | .subReg x y => s.advance.writeWithFlag x (s.reg x - s.reg y) (noBorrow (s.reg x) (s.reg y))
  | .shr x y => shrFrom Config.shiftSource x y s
  | .subnReg x y => s.advance.writeWithFlag x (s.reg y - s.reg x) (noBorrow (s.reg y) (s.reg x))
  | .shl x y => shlFrom Config.shiftSource x y s
  | .sneReg x y => s.advance.setPc (skipTarget (s.reg x != s.reg y) s)
  | .ldI nnn => s.advance.setI (addrOf nnn)
  | .jpV0 nnn => s.advance.setPc (addrOf nnn + zextByte (s.reg 0#4))
  | .rnd x kk => s.advance.countDraw.setReg x (Config.drawByte s.draws &&& kk)
  | .drw x y n => drawFrom Config.spriteEdge x y n s
  | .skp x => s.advance.setPc (skipTarget (s.keyDown (s.reg x).toNat) s)
  | .sknp x => s.advance.setPc (skipTarget (!s.keyDown (s.reg x).toNat) s)
  | .ldVxDT x => s.advance.setReg x s.DT
  | .ldVxK x => s.advance.countDraw.setReg x (BitVec.ofNat 8 (drawKeyFrom s.pressed (Config.drawKey s.draws)))
  | .ldDTVx x => s.advance.setDT (s.reg x)
  | .ldSTVx x => s.advance.setST (s.reg x)
  | .addI x => s.advance.setI (s.I + zextByte (s.reg x))
  | .ldF x => s.advance.setI (glyphAddr (s.reg x))
  | .ldB x => s.advance.setMem (s.mem.writeBlock (indexAddr s 0) (bcdDigits (s.reg x)))
  | .ldMemVx x => s.advance.setMem (s.mem.writeBlock (indexAddr s 0) (s.regBlock x))
  | .ldVxMem x => { s.advance with V := (s.advance.loadBlock x).V }

/-- The state that an instruction with a meaning answers: the three parts in their order. -/
def successor (i : Instr) (s : State) : State :=
  match ownFault i s, suspension i s with
  | some k, _ => s.takeFault k (some (encode i))
  | none, some x => s.awaitKey x
  | none, none => completion i s

/-! ### The three parts together are the meaning -/

theorem skipIf_eq_setPc (taken : Bool) (s : State) :
    skipIf taken s = .next (s.advance.setPc (skipTarget taken s)) := by
  cases taken <;> rfl

theorem exec_ret_of_above {s : State} (h : 16 < s.sp.toNat) : exec .ret s = .refused .stackPointerOutOfRange := by
  have hsp : s.sp ≠ 0#8 := fun h0 => by simp [h0] at h
  have hnone : s.stack[s.sp.toNat - 1]? = none := Vector.getElem?_eq_none (by omega)
  simp only [exec, execRet, if_neg hsp, hnone]

/-- What `exec` answers, for every instruction and state but RET with sp above 16. -/
theorem exec_eq_successor {i : Instr} {s : State} (h : i = .ret → s.sp.toNat ≤ 16) :
    exec i s = .next (successor i s) := by
  cases i with
  | ret =>
    by_cases h0 : s.sp = 0#8
    · simp [exec, execRet, successor, ownFault, h0]
    · have hlt : s.sp.toNat - 1 < 16 := by have := h rfl; omega
      simp [exec, execRet, successor, ownFault, suspension, completion, h0, hlt]
  | ldVxK x =>
    by_cases hp : s.pressed = []
    · simp only [exec_ldVxK_of_none_pressed x hp, successor, ownFault, suspension, if_pos hp]
    · simp only [exec_ldVxK_of_pressed x hp, successor, ownFault, suspension, if_neg hp, completion]
  | call nnn =>
    by_cases hs : 16 ≤ s.sp.toNat <;> simp [exec, execCall, successor, ownFault, suspension, completion, hs]
  | skp x =>
    by_cases hk : 16 ≤ (s.reg x).toNat <;>
      simp [exec, execSkp, successor, ownFault, suspension, completion, skipIf_eq_setPc, hk]
  | sknp x =>
    by_cases hk : 16 ≤ (s.reg x).toNat <;>
      simp [exec, execSknp, successor, ownFault, suspension, completion, skipIf_eq_setPc, hk]
  | drw x y n =>
    cases hb : indexInBounds s (n.toNat - 1) <;>
      simp [exec, execDrw, successor, ownFault, suspension, completion, hb]
  | ldMemVx x =>
    cases hb : indexInBounds s x.toNat <;> simp [exec, execLdMemVx, successor, ownFault, suspension, completion, hb]
  | ldVxMem x =>
    cases hb : indexInBounds s x.toNat with
    | false => simp [exec, execLdVxMem, successor, ownFault, hb]
    | true =>
      simp only [exec, execLdVxMem, successor, ownFault, suspension, completion, hb, if_true]
      rw [← State.loadBlock_eq]
  | ldB x =>
    cases hb : indexInBounds s 2 <;> simp [exec, execLdB, successor, ownFault, suspension, completion, hb]
  | seImm | sneImm | seReg | sneReg => exact skipIf_eq_setPc _ s
  | _ => rfl

theorem exec_ret_sp_le {i : Instr} {s t : State} (h : exec i s = .next t) : i = .ret → s.sp.toNat ≤ 16 := by
  rintro rfl
  by_contra habove
  simp [exec_ret_of_above (Nat.not_le.mp habove)] at h

/-- A meaning that answers a next state did so by exactly one of its three parts. -/
theorem exec_parts {i : Instr} {s t : State} (h : exec i s = .next t) :
    (∃ k, ownFault i s = some k ∧ t = s.takeFault k (some (encode i))) ∨
    (∃ x, ownFault i s = none ∧ suspension i s = some x ∧ t = s.awaitKey x) ∨
    (ownFault i s = none ∧ suspension i s = none ∧ t = completion i s) := by
  have ht : t = successor i s := Host.Outcome.next.inj (h.symm.trans (exec_eq_successor (exec_ret_sp_le h)))
  unfold successor at ht
  split at ht
  next k hk => exact .inl ⟨k, hk, ht⟩
  next x hk hx => exact .inr (.inl ⟨x, hk, hx, ht⟩)
  next hk hx => exact .inr (.inr ⟨hk, hx, ht⟩)

theorem suspension_eq_some_iff {i : Instr} {s : State} {x : Nibble} :
    suspension i s = some x ↔ i = .ldVxK x ∧ s.pressed = [] := by
  cases i with
  | ldVxK y => by_cases hp : s.pressed = [] <;> simp [suspension, hp]
  | _ => simp [suspension]

/-! ### What a completion leaves unchanged -/

theorem completion_key (i : Instr) (s : State) : (completion i s).key = s.key := by
  cases i <;> rfl

theorem completion_fault (i : Instr) (s : State) : (completion i s).fault = s.fault := by
  cases i <;> rfl

theorem completion_wait (i : Instr) (s : State) : (completion i s).wait = none := by
  cases i <;> rfl

theorem completion_result (i : Instr) (s : State) :
    (completion i s).result = if i = .brk then some .halted else some .cont := by
  cases i <;> rfl

theorem completion_mem (i : Instr) (s : State) :
    (∃ x, i = .ldMemVx x ∨ i = .ldB x) ∨ (completion i s).mem = s.mem := by
  cases i with
  | ldMemVx x => exact .inl ⟨x, .inl rfl⟩
  | ldB x => exact .inl ⟨x, .inr rfl⟩
  | _ => exact .inr rfl

theorem completion_fb (i : Instr) (s : State) :
    i = .cls ∨ (∃ x y n, i = .drw x y n) ∨ (completion i s).fb = s.fb := by
  cases i with
  | cls => exact .inl rfl
  | drw x y n => exact .inr (.inl ⟨x, y, n, rfl⟩)
  | _ => exact .inr (.inr rfl)

theorem completion_I (i : Instr) (s : State) :
    (∃ nnn, i = .ldI nnn) ∨ (∃ x, i = .addI x ∨ i = .ldF x) ∨ (completion i s).I = s.I := by
  cases i with
  | ldI nnn => exact .inl ⟨nnn, rfl⟩
  | addI x => exact .inr (.inl ⟨x, .inl rfl⟩)
  | ldF x => exact .inr (.inl ⟨x, .inr rfl⟩)
  | _ => exact .inr (.inr rfl)

theorem completion_keepsStack (i : Instr) (s : State) :
    i = .ret ∨ (∃ nnn, i = .call nnn) ∨ KeepsStack s (completion i s) := by
  cases i with
  | ret => exact .inl rfl
  | call nnn => exact .inr (.inl ⟨nnn, rfl⟩)
  | _ => exact .inr (.inr ⟨rfl, rfl⟩)

theorem completion_DT (i : Instr) (s : State) : (∃ x, i = .ldDTVx x) ∨ (completion i s).DT = s.DT := by
  cases i with
  | ldDTVx x => exact .inl ⟨x, rfl⟩
  | _ => exact .inr rfl

theorem completion_ST (i : Instr) (s : State) : (∃ x, i = .ldSTVx x) ∨ (completion i s).ST = s.ST := by
  cases i with
  | ldSTVx x => exact .inl ⟨x, rfl⟩
  | _ => exact .inr rfl

theorem keepsMem_of_eq {s t : State} (h : t.mem = s.mem) : KeepsMem s t := fun _ => by rw [h]

end Sys2Proof.Machine
end

section
/-! PROOFS. Over all instructions: which of them raise which fault, answer which result, and write which field of the
state (10_state.md sections 2 and 4, 40_step_and_control.md rule R101, 60_exceptions.md rule R220). -/

namespace Sys2Proof.Machine

/-! ### Which instruction raises which fault -/

theorem ite_none_some_eq_some_iff {α : Type} {b : Bool} {k l : α} :
    (if b = true then none else some k) = some l ↔ b = false ∧ k = l := by
  cases b <;> simp

theorem outside_of_not_indexInBounds {s : State} {last : Nat} (h : indexInBounds s last = false) :
    s.I.toNat + last ≥ 4096 :=
  Nat.not_lt.mp fun hin => Bool.noConfusion (h.symm.trans ((indexInBounds_iff s last).mpr hin))

/-- Settles O12: only the checks of the instruction's own fault set an unlatched machine's latch, and each check is the
condition of the statement. -/
theorem faultKindsHaveTheirRaisers : Obligations.FaultKindsHaveTheirRaisers := by
  intro i s t r hexec hs hr
  have hk : ownFault i s = some r.kind := by
    obtain ⟨k, hk, rfl⟩ | ⟨x, -, -, rfl⟩ | ⟨-, -, rfl⟩ := exec_parts hexec
    · cases hr
      exact hk
    · simp [hs] at hr
    · simp [completion_fault, hs] at hr
  cases i with
  | call nnn =>
    obtain ⟨hsp, hkind⟩ := Option.ite_none_right_eq_some.mp hk
    exact .inl ⟨(Option.some.inj hkind).symm, hsp, nnn, rfl⟩
  | ret =>
    obtain ⟨hsp, hkind⟩ := Option.ite_none_right_eq_some.mp hk
    exact .inr (.inl ⟨(Option.some.inj hkind).symm, hsp, rfl⟩)
  | ldMemVx x =>
    obtain ⟨hb, hkind⟩ := ite_none_some_eq_some_iff.mp hk
    exact .inr (.inr (.inl ⟨hkind.symm, x, .inl rfl, outside_of_not_indexInBounds hb⟩))
  | ldVxMem x =>
    obtain ⟨hb, hkind⟩ := ite_none_some_eq_some_iff.mp hk
    exact .inr (.inr (.inl ⟨hkind.symm, x, .inr rfl, outside_of_not_indexInBounds hb⟩))
  | ldB x =>
    obtain ⟨hb, hkind⟩ := ite_none_some_eq_some_iff.mp hk
    exact .inr (.inr (.inr (.inl ⟨hkind.symm, ⟨x, rfl⟩, outside_of_not_indexInBounds hb⟩)))
  | drw x y n =>
    obtain ⟨hb, hkind⟩ := ite_none_some_eq_some_iff.mp hk
    exact .inr (.inr (.inr (.inr (.inl ⟨hkind.symm, x, y, n, rfl, outside_of_not_indexInBounds hb⟩))))
  | skp x =>
    obtain ⟨hkey, hkind⟩ := Option.ite_none_right_eq_some.mp hk
    exact .inr (.inr (.inr (.inr (.inr ⟨(Option.some.inj hkind).symm, x, .inl rfl, hkey⟩))))
  | sknp x =>
    obtain ⟨hkey, hkind⟩ := Option.ite_none_right_eq_some.mp hk
    exact .inr (.inr (.inr (.inr (.inr ⟨(Option.some.inj hkind).symm, x, .inr rfl, hkey⟩))))
  | _ => cases hk

/-! ### Which instruction writes which field -/

/-- Settles O14: a fault and a suspension touch none of these fields, and a completion each under its writers alone. -/
theorem stateIsWrittenByItsWritersOnly : Obligations.StateIsWrittenByItsWritersOnly := by
  intro i s t hexec
  obtain ⟨k, -, rfl⟩ | ⟨x, -, -, rfl⟩ | ⟨-, -, rfl⟩ := exec_parts hexec
  · exact ⟨.inr fun _ => rfl, .inr (.inr rfl), .inr (.inr rfl), .inr (.inr ⟨rfl, rfl⟩), .inr rfl, .inr rfl, rfl⟩
  · exact ⟨.inr fun _ => rfl, .inr (.inr rfl), .inr (.inr rfl), .inr (.inr ⟨rfl, rfl⟩), .inr rfl, .inr rfl, rfl⟩
  · exact ⟨(completion_mem i s).imp_right keepsMem_of_eq, completion_fb i s, completion_I i s,
      completion_keepsStack i s, completion_DT i s, completion_ST i s, completion_key i s⟩

/-! ### Which instruction answers which result -/

theorem State.pressed_eq_nil_iff_keyDown (s : State) : s.pressed = [] ↔ ∀ k, k < 16 → s.keyDown k = false := by
  simp [List.eq_nil_iff_forall_not_mem, State.mem_pressed]

/-- Settles O13: a fault's result is its kind, a suspension's is AwaitingInput, and a completion's is Halted for BRK
alone. -/
theorem haltedAndAwaitingHaveOneSource : Obligations.HaltedAndAwaitingHaveOneSource := by
  intro i s t hexec
  rw [← State.pressed_eq_nil_iff_keyDown]
  obtain ⟨k, hk, rfl⟩ | ⟨x, -, hx, rfl⟩ | ⟨-, hx, rfl⟩ := exec_parts hexec
  · constructor
    · refine iff_of_false nofun ?_
      rintro rfl
      cases hk
    · refine iff_of_false nofun ?_
      rintro ⟨⟨x, rfl⟩, -⟩
      cases hk
  · obtain ⟨rfl, hp⟩ := suspension_eq_some_iff.mp hx
    exact ⟨iff_of_false nofun nofun, iff_of_true rfl ⟨⟨x, rfl⟩, hp⟩⟩
  · rw [completion_result]
    constructor
    · split
      next hi => exact iff_of_true rfl hi
      next hi => exact iff_of_false nofun hi
    · refine iff_of_false (by split <;> nofun) ?_
      rintro ⟨⟨x, rfl⟩, hp⟩
      cases hx.symm.trans (suspension_eq_some_iff.mpr ⟨rfl, hp⟩)

/-! ### VF -/

theorem eq_of_reg_setReg_ne {s : State} {x j : Nibble} {v : Byte} (h : (s.setReg x v).reg j ≠ s.reg j) : x = j := by
  by_contra hx
  exact h (State.reg_setReg_of_ne s v (Ne.symm hx))

theorem eq_of_reg_loadBlock_VF_ne {s : State} {x : Nibble} (h : (s.loadBlock x).reg 0xF#4 ≠ s.reg 0xF#4) :
    x = 0xF#4 := by
  rw [State.reg_loadBlock] at h
  have hle : (0xF#4).toNat ≤ x.toNat := by
    by_contra hlt
    exact h (if_neg hlt)
  bv_omega

/-- Settles O15: a register write that changes VF has VF as its destination; a flag writer may have any. -/
theorem flagIsWrittenByItsWritersOnly : Obligations.FlagIsWrittenByItsWritersOnly := by
  intro i s t hexec hVF
  obtain ⟨k, -, rfl⟩ | ⟨x, -, -, rfl⟩ | ⟨-, -, rfl⟩ := exec_parts hexec
  · exact absurd rfl hVF
  · exact absurd rfl hVF
  cases i with
  | orReg x y | andReg x y | xorReg x y | addReg x y | subReg x y | subnReg x y | shr x y | shl x y =>
    exact .inl ⟨x, y, by simp⟩
  | drw x y n => exact .inl ⟨x, y, by simp⟩
  | ldImm x kk | addImm x kk =>
    obtain rfl := eq_of_reg_setReg_ne (s := s.advance) hVF
    exact .inr (.inl ⟨kk, by simp⟩)
  | rnd x kk =>
    obtain rfl := eq_of_reg_setReg_ne (s := s.advance.countDraw) hVF
    exact .inr (.inl ⟨kk, by simp⟩)
  | ldReg x y =>
    obtain rfl := eq_of_reg_setReg_ne (s := s.advance) hVF
    exact .inr (.inr (.inl ⟨y, rfl⟩))
  | ldVxDT x =>
    obtain rfl := eq_of_reg_setReg_ne (s := s.advance) hVF
    exact .inr (.inr (.inr (.inl rfl)))
  | ldVxK x =>
    obtain rfl := eq_of_reg_setReg_ne (s := s.advance.countDraw) hVF
    exact .inr (.inr (.inr (.inr (.inl rfl))))
  | ldVxMem x =>
    obtain rfl := eq_of_reg_loadBlock_VF_ne (s := s.advance) hVF
    exact .inr (.inr (.inr (.inr (.inr rfl))))
  | _ => exact absurd rfl hVF

end Sys2Proof.Machine
end

section
/-! PROOFS. Over all instructions: none reads ST, and none reads a stack entry at or above sp (10_state.md rules R29 and
R31). -/

namespace Sys2Proof.Machine

/-! ### ST -/

/-- The registers after a block load come from the registers, I and memory alone. -/
theorem State.loadBlock_V_congr {s u : State} (x : Nibble) (hV : u.V = s.V) (hI : u.I = s.I) (hmem : u.mem = s.mem) :
    (u.loadBlock x).V = (s.loadBlock x).V :=
  State.V_ext fun j => by
    have hreg : u.reg j = s.reg j := by simp only [State.reg, hV]
    rw [State.reg_loadBlock, State.reg_loadBlock, hreg, hI, hmem]

theorem ownFault_setST (i : Instr) (s : State) (v : Byte) : ownFault i (s.setST v) = ownFault i s := by
  cases i <;> rfl

theorem suspension_setST (i : Instr) (s : State) (v : Byte) : suspension i (s.setST v) = suspension i s := by
  cases i <;> rfl

theorem completion_setST (i : Instr) (s : State) (v : Byte) :
    (completion i (s.setST v)).setST (completion i s).ST = completion i s := by
  cases i with
  | ldVxMem x =>
    have hV := State.loadBlock_V_congr (s := s.advance) (u := (s.setST v).advance) x rfl rfl rfl
    simp only [completion, hV]
    rfl
  | _ => rfl

theorem successor_of_fault {i : Instr} {s : State} {k : Fault} (h : ownFault i s = some k) :
    successor i s = s.takeFault k (some (encode i)) := by
  simp only [successor, h]

theorem successor_of_suspension {i : Instr} {s : State} {x : Nibble} (hk : ownFault i s = none)
    (hx : suspension i s = some x) : successor i s = s.awaitKey x := by
  simp only [successor, hk, hx]

theorem successor_of_completion {i : Instr} {s : State} (hk : ownFault i s = none) (hx : suspension i s = none) :
    successor i s = completion i s := by
  simp only [successor, hk, hx]

/-- Settles O16: each of the three parts is the same from both states, but for the ST that is carried along. -/
theorem soundTimerIsNeverRead : Obligations.SoundTimerIsNeverRead := by
  intro i s t v hexec
  have hret := exec_ret_sp_le hexec
  refine ⟨successor i (s.setST v), exec_eq_successor (s := s.setST v) hret, ?_⟩
  have hk' := ownFault_setST i s v
  have hx' := suspension_setST i s v
  obtain ⟨k, hk, rfl⟩ | ⟨x, hk, hx, rfl⟩ | ⟨hk, hx, rfl⟩ := exec_parts hexec
  · rw [successor_of_fault (hk'.trans hk)]
    refine ⟨rfl, ?_⟩
    rintro ⟨x, rfl⟩
    cases hk
  · rw [successor_of_suspension (hk'.trans hk) (hx'.trans hx)]
    refine ⟨rfl, ?_⟩
    rintro ⟨x, rfl⟩
    cases hx
  · rw [successor_of_completion (hk'.trans hk) (hx'.trans hx)]
    refine ⟨completion_setST i s v, ?_⟩
    rintro ⟨x, rfl⟩
    rfl

/-! ### The stale stack entries -/

/-- `s` with other stack entries. -/
def State.setStack (s : State) (stack : Vector Word 16) : State := { s with stack := stack }

@[simp] theorem State.setStack_stack (s : State) (stack : Vector Word 16) : (s.setStack stack).stack = stack := rfl
@[simp] theorem State.setStack_sp (s : State) (stack : Vector Word 16) : (s.setStack stack).sp = s.sp := rfl

/-- Two stacks agree in their first `n` entries. -/
def AgreeBelow (n : Nat) (a b : Vector Word 16) : Prop := ∀ j : Fin 16, j.val < n → a[j] = b[j]

theorem AgreeBelow.mono {m n : Nat} {a b : Vector Word 16} (h : AgreeBelow n a b) (hmn : m ≤ n) : AgreeBelow m a b :=
  fun j hj => h j (hj.trans_le hmn)

theorem AgreeBelow.getElem?_eq {n i : Nat} {a b : Vector Word 16} (h : AgreeBelow n a b) (hi : i < n) :
    a[i]? = b[i]? := by
  by_cases h16 : i < 16
  · have hab : a[i] = b[i] := h ⟨i, h16⟩ hi
    simp [h16, hab]
  · simp [h16]

theorem AgreeBelow.setIfInBounds {n : Nat} {a b : Vector Word 16} (h : AgreeBelow n a b) (v : Word) :
    AgreeBelow (n + 1) (a.setIfInBounds n v) (b.setIfInBounds n v) := by
  intro j hj
  by_cases hjn : n = j.val
  · simp [hjn]
  · have hab : a[j.val] = b[j.val] := h j (by omega)
    simp [hjn, hab]

theorem ownFault_setStack (i : Instr) (s : State) (stack : Vector Word 16) :
    ownFault i (s.setStack stack) = ownFault i s := by
  cases i <;> rfl

theorem suspension_setStack (i : Instr) (s : State) (stack : Vector Word 16) :
    suspension i (s.setStack stack) = suspension i s := by
  cases i <;> rfl

theorem ownFault_ret_eq_none_iff (s : State) : ownFault .ret s = none ↔ 1 ≤ s.sp.toNat := by
  simp [ownFault, ← BitVec.toNat_inj, Nat.one_le_iff_ne_zero]

theorem ownFault_call_eq_none_iff (nnn : Addr12) (s : State) : ownFault (.call nnn) s = none ↔ s.sp.toNat < 16 := by
  simp [ownFault]

theorem completion_setStack {i : Instr} {s : State} {stale : Vector Word 16} (hk : ownFault i s = none)
    (hlive : AgreeBelow s.sp.toNat stale s.stack) :
    (completion i (s.setStack stale)).setStack (completion i s).stack = completion i s := by
  cases i with
  | ret =>
    have hsp := (ownFault_ret_eq_none_iff s).mp hk
    have htop := hlive.getElem?_eq (Nat.sub_one_lt_of_le hsp le_rfl)
    simp only [completion, State.setStack_stack, State.setStack_sp, htop]
    rfl
  | ldVxMem x =>
    have hV := State.loadBlock_V_congr (s := s.advance) (u := (s.setStack stale).advance) x rfl rfl rfl
    simp only [completion, hV]
    rfl
  | _ => rfl

theorem completion_setStack_agreeBelow {i : Instr} {s : State} {stale : Vector Word 16} (hk : ownFault i s = none)
    (hlive : AgreeBelow s.sp.toNat stale s.stack) :
    AgreeBelow (completion i s).sp.toNat (completion i (s.setStack stale)).stack (completion i s).stack := by
  cases i with
  | ret =>
    have hsp := (ownFault_ret_eq_none_iff s).mp hk
    exact hlive.mono ((State.dropTop_sp_toNat (s := s.advance) hsp).trans_le (Nat.sub_le ..))
  | call nnn =>
    have hsp := (ownFault_call_eq_none_iff nnn s).mp hk
    exact (hlive.setIfInBounds _).mono (State.push_sp_toNat (s := s.advance) (s.pc + 2#16) hsp).le
  | _ => exact hlive

/-- Settles O17: each of the three parts is the same from both states, but for the stack; RET reads the entry below sp,
and CALL makes one more entry live, with the same value in both. -/
theorem staleStackEntriesAreNeverRead : Obligations.StaleStackEntriesAreNeverRead := by
  intro i s t stale hsp hexec hlive
  refine ⟨successor i (s.setStack stale), exec_eq_successor (s := s.setStack stale) fun _ => hsp, ?_⟩
  have hk' := ownFault_setStack i s stale
  have hx' := suspension_setStack i s stale
  obtain ⟨k, hk, rfl⟩ | ⟨x, hk, hx, rfl⟩ | ⟨hk, hx, rfl⟩ := exec_parts hexec
  · rw [successor_of_fault (hk'.trans hk)]
    exact ⟨rfl, hlive⟩
  · rw [successor_of_suspension (hk'.trans hk) (hx'.trans hx)]
    exact ⟨rfl, hlive⟩
  · rw [successor_of_completion (hk'.trans hk) (hx'.trans hx)]
    exact ⟨completion_setStack hk hlive, completion_setStack_agreeBelow hk hlive⟩

end Sys2Proof.Machine
end

section
/-! PROOFS. The invariant holds after a reset, and every step and every host operation keeps it (10_state.md sections 3
and 4, 60_exceptions.md rules R221, R222 and R235). -/

namespace Sys2Proof.Machine

/-! ### The invariant after a reset -/

theorem resetWith_inv {l : Launch} (hmem : l.mem.wf) (d : Nat) : (State.resetWith l d).Inv where
  memCanonical := Memory.wf_preloadFont hmem
  spBound := Nat.zero_le _
  pcBound := show (0x200#16).toNat ≤ maxPc by decide
  liveStack := fun _ hj => absurd hj (Nat.not_lt_zero _)
  waiting := nofun
  latched := nofun
  fresh := fun _ => ⟨rfl, rfl, rfl, rfl⟩

/-- Settles O18: a clause is about a field that a reset writes, or about the launch memory with the font preloaded. -/
theorem resetHasTheInvariant : Obligations.ResetHasTheInvariant :=
  ⟨resetWith_inv (l := Launch.zero) Memory.wf_nil 0, fun _ d hmem => resetWith_inv hmem d⟩

/-! ### The invariant after a fault and after a suspension -/

theorem takeFault_inv {s : State} (h : s.Inv) (hwait : s.wait = none) (k : Fault) :
    (s.takeFault k (fetchWord s)).Inv where
  memCanonical := h.memCanonical
  spBound := h.spBound
  pcBound := h.pcBound
  liveStack := h.liveStack
  waiting := fun _ hx => absurd (hwait.symm.trans hx) nofun
  latched := fun _ hr => Option.some.inj hr ▸ ⟨rfl, rfl, rfl⟩
  fresh := nofun

theorem awaitKey_inv {s : State} (h : s.Inv) (hf : s.fault = none) {w : Word} {x : Nibble}
    (hw : fetchWord s = some w) (hdec : decodeWord w = .ok (.ldVxK x)) : (s.awaitKey x).Inv where
  memCanonical := h.memCanonical
  spBound := h.spBound
  pcBound := h.pcBound
  liveStack := h.liveStack
  waiting := fun _ hx => Option.some.inj hx ▸ ⟨hf, rfl, w, hw, hdec⟩
  latched := fun _ hr => absurd (hf.symm.trans hr) nofun
  fresh := nofun

/-! ### The invariant after a completion -/

theorem pc_of_fetchWord {s : State} {w : Word} (h : fetchWord s = some w) : s.pc.toNat + 1 < 4096 := by
  by_contra hout
  cases (fetchWord_of_outside (Nat.not_lt.mp hout)).symm.trans h

theorem completion_mem_wf (i : Instr) {s : State} (h : s.mem.wf) : (completion i s).mem.wf := by
  obtain ⟨x, rfl | rfl⟩ | hmem := completion_mem i s
  · exact Memory.wf_writeBlock _ h _
  · exact Memory.wf_writeBlock _ h _
  · exact hmem.symm ▸ h

theorem add_two_toNat {p : Word} (h : p.toNat + 1 < 4096) : (p + 2#16).toNat = p.toNat + 2 := by
  rw [BitVec.toNat_add, BitVec.toNat_ofNat]
  omega

theorem skipTarget_le {s : State} (taken : Bool) (h : s.pc.toNat + 1 < 4096) :
    (skipTarget taken s).toNat ≤ maxPc := by
  have h2 := add_two_toNat h
  simp only [skipTarget, maxPc]
  split
  · rw [BitVec.toNat_add, h2, BitVec.toNat_ofNat]
    omega
  · omega

/-- The stack of a completed instruction: CALL pushes p + 2, RET pops, no other touches it. -/
theorem completion_stack_cases {i : Instr} {s : State} (hk : ownFault i s = none) :
    ((∃ nnn, i = .call nnn) ∧ s.sp.toNat < 16 ∧ (completion i s).sp.toNat = s.sp.toNat + 1 ∧
      (completion i s).stack = s.stack.setIfInBounds s.sp.toNat (s.pc + 2#16)) ∨
    (completion i s).sp.toNat ≤ s.sp.toNat ∧ (completion i s).stack = s.stack := by
  obtain rfl | ⟨nnn, rfl⟩ | ⟨hsp, hstack⟩ := completion_keepsStack i s
  · have hsp := (ownFault_ret_eq_none_iff s).mp hk
    exact .inr ⟨(State.dropTop_sp_toNat (s := s.advance) hsp).trans_le (Nat.sub_le ..), rfl⟩
  · have hsp := (ownFault_call_eq_none_iff nnn s).mp hk
    exact .inl ⟨⟨nnn, rfl⟩, hsp, State.push_sp_toNat (s := s.advance) (s.pc + 2#16) hsp, rfl⟩
  · exact .inr ⟨hsp ▸ le_rfl, hstack⟩

theorem State.Inv.completion_pc {s : State} (h : s.Inv) {i : Instr} (hpc : s.pc.toNat + 1 < 4096)
    (hk : ownFault i s = none) : (completion i s).pc.toNat ≤ maxPc := by
  have hnext : (s.pc + 2#16).toNat ≤ maxPc := skipTarget_le false hpc
  cases i with
  | ret =>
    have hsp := (ownFault_ret_eq_none_iff s).mp hk
    have hlt : s.sp.toNat - 1 < 16 := (Nat.sub_one_lt_of_le hsp le_rfl).trans_le h.spBound
    have htop : s.stack[s.sp.toNat - 1].toNat ≤ 4096 := h.liveStack ⟨_, hlt⟩ (Nat.sub_one_lt_of_le hsp le_rfl)
    simp only [completion, State.setPc_pc, Vector.getElem?_eq_getElem hlt, Option.getD_some, maxPc]
    omega
  | jp nnn | call nnn =>
    exact (addrOf_toNat nnn).trans_le (nnn.isLt.le.trans (by decide))
  | jpV0 nnn =>
    have hn := nnn.isLt
    have hv := (s.reg 0#4).isLt
    refine (addrOf_add_zextByte_toNat nnn (s.reg 0#4)).trans_le ?_
    simp only [maxPc]
    omega
  | seImm | sneImm | seReg | sneReg | skp | sknp => exact skipTarget_le _ hpc
  | _ => exact hnext

theorem State.Inv.completion_sp {s : State} (h : s.Inv) {i : Instr} (hk : ownFault i s = none) :
    (completion i s).sp.toNat ≤ Config.stackDepth := by
  obtain ⟨-, hroom, hsp, -⟩ | ⟨hsp, -⟩ := completion_stack_cases hk
  · exact hsp.trans_le hroom
  · exact hsp.trans h.spBound

theorem State.Inv.completion_liveStack {s : State} (h : s.Inv) {i : Instr} (hpc : s.pc.toNat + 1 < 4096)
    (hk : ownFault i s = none) (j : Fin 16) (hj : j.val < (completion i s).sp.toNat) :
    (completion i s).stack[j].toNat ≤ Config.memSize := by
  obtain ⟨-, -, hsp, hstack⟩ | ⟨hsp, hstack⟩ := completion_stack_cases hk
  · rw [hstack]
    by_cases hjsp : s.sp.toNat = j.val
    · have hentry : (s.stack.setIfInBounds s.sp.toNat (s.pc + 2#16))[j] = s.pc + 2#16 := by simp [hjsp]
      rw [hentry, add_two_toNat hpc]
      exact hpc
    · have hold := h.liveStack j (by omega)
      simpa [Vector.getElem_setIfInBounds, hjsp] using hold
  · rw [hstack]
    exact h.liveStack j (hj.trans_le hsp)

theorem completion_inv {s : State} (h : s.Inv) (hf : s.fault = none) {i : Instr} (hpc : s.pc.toNat + 1 < 4096)
    (hk : ownFault i s = none) : (completion i s).Inv where
  memCanonical := completion_mem_wf i h.memCanonical
  spBound := h.completion_sp hk
  pcBound := h.completion_pc hpc hk
  liveStack := h.completion_liveStack hpc hk
  waiting := fun _ hx => absurd ((completion_wait i s).symm.trans hx) nofun
  latched := fun _ hr => absurd (((completion_fault i s).trans hf).symm.trans hr) nofun
  fresh := fun hr => by
    rw [completion_result] at hr
    split at hr <;> cases hr

/-! ### The invariant after a step -/

theorem step_of_decodeWord {s : State} {w : Word} {i : Instr} (hf : s.fault = none) (hw : fetchWord s = some w)
    (hdec : decodeWord w = .ok i) : step s = exec i s := by
  simp only [step, hf, hw, hdec]

theorem exec_ldVxK_fault {x : Nibble} {s t : State} (h : exec (.ldVxK x) s = .next t) : t.fault = s.fault := by
  obtain ⟨k, hk, -⟩ | ⟨y, -, -, rfl⟩ | ⟨-, -, rfl⟩ := exec_parts h
  · cases hk
  · rfl
  · rfl

/-- A waiting machine steps into its LD Vx, K again, which raises no fault. -/
theorem State.Inv.wait_eq_none_of_fault {s t : State} {r : FaultRecord} (h : s.Inv) (hstep : step s = .next t)
    (hr : t.fault = some r) : s.wait = none := by
  by_contra hwait
  obtain ⟨x, hx⟩ := Option.ne_none_iff_exists'.mp hwait
  obtain ⟨hf, -, w, hw, hdec⟩ := h.waiting x hx
  rw [step_of_decodeWord hf hw hdec] at hstep
  cases ((exec_ldVxK_fault hstep).trans hf).symm.trans hr

/-- Settles O19: a step takes a fault, suspends or completes, and each keeps every clause. -/
theorem stepKeepsTheInvariant : Obligations.StepKeepsTheInvariant := by
  intro s t h hstep
  cases hr : t.fault with
  | some r =>
    rw [step_eq_takeFault hstep hr]
    exact takeFault_inv h (h.wait_eq_none_of_fault hstep hr) r.kind
  | none =>
    obtain ⟨hf, ⟨-, rfl⟩ | ⟨w, e, -, -, rfl⟩ | ⟨w, i, hw, hdec, hexec⟩⟩ := step_cases hstep
    · cases hr
    · cases hr
    · obtain ⟨k, -, rfl⟩ | ⟨x, -, hx, rfl⟩ | ⟨hk, -, rfl⟩ := exec_parts hexec
      · cases hr
      · obtain ⟨rfl, -⟩ := suspension_eq_some_iff.mp hx
        exact awaitKey_inv h hf hw hdec
      · exact completion_inv h hf (pc_of_fetchWord hw) hk

/-! ### The invariant after a host operation -/

theorem load_fits_iff (bytes : List Byte) :
    Config.loadBase + bytes.length ≤ Config.memSize ↔ bytes.length ≤ 3584 := by
  simp only [Config.loadBase, Config.memSize]
  omega

theorem hostOp_load_of_admitted {s : State} {bytes : List Byte} (h : s.result = none ∧ bytes.length ≤ 3584) :
    hostOp (.load bytes) s = (s.setMem (s.mem.writeBlock Config.loadBase bytes), .done) := by
  simp only [hostOp, State.load, load_fits_iff, if_pos h]

theorem hostOp_load_of_not_admitted {s : State} {bytes : List Byte} (h : ¬(s.result = none ∧ bytes.length ≤ 3584)) :
    hostOp (.load bytes) s = (s, .refused) := by
  simp only [hostOp, State.load, load_fits_iff, if_neg h]

/-- set_key changes the keys at most, admitted or not. -/
theorem hostOp_setKey_cases (s : State) (k : Nat) (pressed : Bool) :
    ∃ key, (hostOp (.setKey k pressed) s).1 = { s with key := key } := by
  by_cases h : k < 16
  · exact ⟨_, congrArg Prod.fst (hostOp_setKey_of_key h)⟩
  · exact ⟨s.key, congrArg Prod.fst (hostOp_setKey_of_no_key (Nat.not_lt.mp h))⟩

/-- No clause of the invariant is about the timers or the keys. -/
theorem State.Inv.of_timers_keys {s : State} (h : s.Inv) (DT ST : Byte) (key : Vector Bool 16) :
    State.Inv { s with DT := DT, ST := ST, key := key } :=
  ⟨h.memCanonical, h.spBound, h.pcBound, h.liveStack, h.waiting, h.latched, h.fresh⟩

/-- Before the first step no clause is about the bytes of memory, only about their form. -/
theorem State.Inv.setMem {s : State} (h : s.Inv) (hresult : s.result = none) {m : Memory} (hm : m.wf) :
    (s.setMem m).Inv := by
  obtain ⟨-, -, hwait, hfault⟩ := h.fresh hresult
  exact ⟨hm, h.spBound, h.pcBound, h.liveStack, fun _ hx => absurd (hwait.symm.trans hx) nofun,
    fun _ hr => absurd (hfault.symm.trans hr) nofun, h.fresh⟩

/-- The machine after the host's step: the next state of `step`, or the machine as it was. -/
theorem hostStep_cases (s : State) : step s = .next (hostStep s).1 ∨ (hostStep s).1 = s := by
  unfold hostStep
  split
  next t ht => split <;> exact .inl ht
  next => exact .inr rfl
  next => exact .inr rfl

/-- Settles O20: reset and step have lemmas of their own, load is admitted only before the first step, and the rest
write the timers or a key at most. -/
theorem hostOperationsKeepTheInvariant : Obligations.HostOperationsKeepTheInvariant := by
  intro op s h hreset
  cases op with
  | reset l => exact resetWith_inv (hreset l rfl) s.draws
  | load bytes =>
    by_cases hload : s.result = none ∧ bytes.length ≤ 3584
    · rw [hostOp_load_of_admitted hload]
      exact h.setMem hload.1 (Memory.wf_writeBlock bytes h.memCanonical _)
    · rw [hostOp_load_of_not_admitted hload]
      exact h
  | step =>
    obtain hnext | hsame := hostStep_cases s
    · exact stepKeepsTheInvariant s _ h hnext
    · exact hsame.symm ▸ h
  | tick => exact h.of_timers_keys _ _ _
  | setKey k pressed =>
    obtain ⟨key, hkey⟩ := hostOp_setKey_cases s k pressed
    rw [hkey]
    exact h.of_timers_keys _ _ _
  | inspect | soundValue => exact h

end Sys2Proof.Machine
end

section
/-! PROOFS. The step at a decoded and at an illegal word, the step of every machine that is not latched, and any number
of steps at a key wait (40_step_and_control.md rule R100, 44_input_timers.md rule R204). -/

namespace Sys2Proof.Machine

/-! ### The step at a decoded and at an illegal word (rule R100) -/

theorem decodeWord_of_decode {hi lo : Byte} {i : Instr} {rest : List Byte} (h : decode [hi, lo] = .ok (i, rest)) :
    decodeWord (concat hi lo) = .ok i ∧ rest = [] := by
  simp only [decode] at h
  split at h
  next j hj =>
    cases h
    exact ⟨hj, rfl⟩
  next => cases h

/-- Settles O7: the two bytes are the word that the step fetches. -/
theorem stepRunsDecodedInstruction : Obligations.StepRunsDecodedInstruction := by
  intro s i rest hf hpc hdecode
  obtain ⟨hdec, hrest⟩ := decodeWord_of_decode hdecode
  exact ⟨step_of_decodeWord hf (fetchWord_of_inside hpc) hdec, hrest⟩

theorem step_of_illegal {s : State} {w : Word} {e : Reject} (hf : s.fault = none) (hw : fetchWord s = some w)
    (hdec : decodeWord w = .error e) : step s = .next (s.takeFault .decodeError (some w)) := by
  simp only [step, hf, hw, hdec]

/-- Settles O9: the decoder rejects the word, and the step takes that fault. -/
theorem illegalWordTakesDecodeError : Obligations.IllegalWordTakesDecodeError := by
  intro s w hf hw hbrk hillegal
  have hdec := (illegalSpaceIsExact w).mpr ⟨hbrk, hillegal⟩
  exact ⟨_, step_of_illegal hf hw hdec, takeFault_faultTaken s _ _⟩

/-! ### Every unlatched step has a next state and a result -/

theorem exists_step_eq_next {s : State} (hf : s.fault = none) (hsp : s.sp.toNat ≤ 16) : ∃ t, step s = .next t := by
  cases hw : fetchWord s with
  | none => exact ⟨_, step_of_fetchWord_none hf hw⟩
  | some w =>
    cases hdec : decodeWord w with
    | error e => exact ⟨_, step_of_illegal hf hw hdec⟩
    | ok i => exact ⟨_, (step_of_decodeWord hf hw hdec).trans (exec_eq_successor fun _ => hsp)⟩

theorem exec_result {i : Instr} {s t : State} (h : exec i s = .next t) : ∃ r, t.result = some r := by
  obtain ⟨k, -, rfl⟩ | ⟨x, -, -, rfl⟩ | ⟨-, -, rfl⟩ := exec_parts h
  · exact ⟨.fault k, rfl⟩
  · exact ⟨.awaitingInput, rfl⟩
  · rw [completion_result]
    split <;> exact ⟨_, rfl⟩

theorem step_result {s t : State} (h : step s = .next t) : ∃ r, t.result = some r := by
  obtain ⟨-, ⟨-, rfl⟩ | ⟨w, e, -, -, rfl⟩ | ⟨w, i, -, -, hexec⟩⟩ := step_cases h
  · exact ⟨.fault .outOfBounds, rfl⟩
  · exact ⟨.fault .decodeError, rfl⟩
  · exact exec_result hexec

theorem hostStep_of_next {s t : State} {r : StepResult} (h : step s = .next t) (hr : t.result = some r) :
    hostStep s = (t, .stepped r) := by
  simp only [hostStep, h, hr]

/-- Settles O21: only RET above 16 entries is refused, which the invariant rules out. -/
theorem runningMachineAlwaysSteps : Obligations.RunningMachineAlwaysSteps := by
  intro s h hf
  obtain ⟨t, ht⟩ := exists_step_eq_next hf h.spBound
  obtain ⟨r, hr⟩ := step_result ht
  exact ⟨t, r, ht, hr, hostStep_of_next ht hr⟩

/-! ### Waiting, however long (44_input_timers.md rule R204) -/

theorem core_run_succ {M : Host.Core} {s t : M.State} (h : M.step s = .next t) (n : Nat) :
    M.run (n + 1) s = M.run n t := by
  simp only [Host.Core.run, h]

theorem step_of_key_wait {s : State} {w : Word} {x : Nibble} (hf : s.fault = none) (hw : fetchWord s = some w)
    (hdec : decodeWord w = .ok (.ldVxK x)) (hkeys : ∀ k : Fin 16, s.key[k] = false) :
    Sys2Proof.core.step s = .next (s.awaitKey x) :=
  (step_of_decodeWord hf hw hdec).trans (exec_ldVxK_of_none_pressed x ((State.pressed_eq_nil_iff s).mpr hkeys))

/-- Settles O50: the suspended machine meets the hypotheses again, and suspending it once more changes nothing. -/
theorem waitingNeverAdvances : Obligations.WaitingNeverAdvances := by
  intro n x s w hf hw hdec hkeys
  induction n generalizing s with
  | zero => exact core_run_succ (step_of_key_wait hf hw hdec hkeys) 0
  | succ n ih =>
    have hrest := ih (s.awaitKey x) hf hw hkeys
    exact (core_run_succ (step_of_key_wait hf hw hdec hkeys) _).trans hrest

end Sys2Proof.Machine
end

section
/-! PROOFS. RET above 16 entries, and CALL followed by RET (10_state.md rule R28, 40_step_and_control.md rules R109 and
R110). -/

namespace Sys2Proof.Machine

/-- Settles O27: no stack entry has that index. -/
theorem returnAboveSixteenIsRefused : Obligations.ReturnAboveSixteenIsRefused :=
  fun _ => exec_ret_of_above

/-- Settles O28: RET reads the entry that CALL wrote, and the entries below it are others. -/
theorem callThenReturnComesBack : Obligations.CallThenReturnComesBack := by
  intro nnn s t u hsp hcall husp hustack
  obtain rfl : t = (s.advance.push (s.pc + 2#16)).setPc (addrOf nnn) :=
    Host.Outcome.next.inj (hcall.symm.trans (exec_call_of_room nnn hsp))
  have hsp' : u.sp.toNat = s.sp.toNat + 1 := by
    rw [husp]
    exact State.push_sp_toNat (s := s.advance) (s.pc + 2#16) hsp
  have hstack : u.stack = s.stack.set s.sp.toNat (s.pc + 2#16) hsp :=
    hustack.trans (State.push_stack_eq_set (s := s.advance) (s.pc + 2#16) hsp)
  refine ⟨_, exec_ret_of_live ⟨s.sp.toNat, hsp⟩ hsp', ?target, ?pointer, fun j hj => ?live⟩
  case target =>
    rw [State.setPc_pc, hstack]
    exact Vector.getElem_set_self hsp
  case pointer =>
    have hpop : (s.sp + 1#8) - 1#8 = s.sp := BitVec.add_sub_cancel ..
    exact (congrArg (· - 1#8) husp).trans hpop
  case live =>
    have hne : s.sp.toNat ≠ j.val := Nat.ne_of_gt hj
    rw [State.setPc_stack, State.dropTop_stack, State.advance_stack, hstack]
    exact Vector.getElem_set_ne hsp j.isLt hne

end Sys2Proof.Machine
end

section
/-! PROOFS. The logic operations with their flag, under both settings of LOGIC_CLEARS_VF (41_alu.md rules R134 to
R136). -/

namespace Sys2Proof.Machine

/-- A logic operation leaves its result bit by bit, and 0 in VF whatever the destination. -/
theorem logic_completes {i : Instr} {s : State} {x : Nibble} {r : Byte} {bit : Nat → Bool}
    (hi : exec i s = .next (State.writeLogic logicClearsVF s.advance x r)) (hr : ∀ b, r.getLsbD b = bit b) :
    ∃ t, exec i s = .next t ∧ WritesRegsOnly [x, 0xF#4] 0 s t ∧ t.reg 0xF#4 = 0#8 ∧
      (x ≠ 0xF#4 → ∀ b, (t.reg x).getLsbD b = bit b) := by
  refine ⟨s.advance.writeWithFlag x r false, hi, writesRegsOnly_writeWithFlag s x r false, ?flag, fun hx b => ?result⟩
  case flag => rw [State.reg_writeWithFlag, if_pos rfl, flagByte, if_neg Bool.false_ne_true]
  case result => rw [State.reg_writeWithFlag, if_neg hx, if_pos rfl, hr]

/-- Settles O33: bit b of each result is the operation on bit b of the operands. -/
theorem logicClearsTheFlag : Obligations.LogicClearsTheFlag := by
  intro x y s
  exact ⟨formatXYN_family8_toNat x y 0x1#4, formatXYN_family8_toNat x y 0x2#4, formatXYN_family8_toNat x y 0x3#4,
    logic_completes rfl fun _ => BitVec.getLsbD_or, logic_completes rfl fun _ => BitVec.getLsbD_and,
    logic_completes rfl fun _ => BitVec.getLsbD_xor⟩

/-- Settles O34: a flagged write of 0, or a plain register write. -/
theorem logicFlagFollowsItsParameter : Obligations.LogicFlagFollowsItsParameter := by
  intro clears s x j r
  cases clears with
  | true => simp [State.writeLogic_true, State.reg_writeWithFlag, flagByte]
  | false => simp [State.writeLogic_false, State.reg_setReg]

end Sys2Proof.Machine
end

section
/-! PROOFS. What is read back after LD [I], Vx: by LD Vx, [I] and by the next fetch (20_memory.md rule R63,
42_index_memory.md rules R162 and R163). -/

namespace Sys2Proof.Machine

/-- A store of registers inside memory, as the reads after it see it. -/
theorem read_of_exec_ldMemVx {x : Nibble} {s t : State} (hin : s.I.toNat + x.toNat < 4096)
    (h : exec (.ldMemVx x) s = .next t) :
    t.pc = s.pc + 2#16 ∧ ∀ j : Nibble, j.toNat ≤ x.toNat → t.mem.read (s.I.toNat + j.toNat) = s.reg j := by
  obtain ⟨-, -, hstore⟩ := storeRegistersToMemory x s
  obtain ⟨u, hu, hread, -, -, hframe, -⟩ := hstore hin
  obtain rfl : u = t := Host.Outcome.next.inj (hu.symm.trans h)
  exact ⟨hframe.pc, hread⟩

/-- Settles O42: the load reads what the store left at the same addresses. -/
theorem storeThenLoadRestores : Obligations.StoreThenLoadRestores := by
  intro x s t u hin hstore hI hmem
  obtain ⟨-, hstored⟩ := read_of_exec_ldMemVx hin hstore
  obtain ⟨-, -, hload⟩ := loadRegistersFromMemory x u
  obtain ⟨v, _, hv, -, hloaded, -⟩ := hload (hI ▸ hin)
  refine ⟨v, hv, fun j hj => ?_⟩
  rw [hloaded j hj, hI, hmem, hstored j hj]

/-- Settles O44: the next fetch reads the bytes stored from V0 and V1. -/
theorem storeIsSeenByTheNextFetch : Obligations.StoreIsSeenByTheNextFetch := by
  intro x s t hI hx hin hstore
  obtain ⟨hpc, hread⟩ := read_of_exec_ldMemVx hin hstore
  have hpcI : t.pc = s.I := hpc.trans hI.symm
  refine ⟨_, fetchWord_of_inside (s := t) (by rw [hpcI]; omega), ?_⟩
  have h0 : t.mem.read s.I.toNat = s.reg 0#4 := hread 0#4 (Nat.zero_le _)
  have h1 : t.mem.read (s.I.toNat + 1) = s.reg 1#4 := hread 1#4 hx
  rw [concat_toNat, hpcI, h0, h1]

end Sys2Proof.Machine
end

section
/-! PROOFS. Two draws of the same bytes at one origin (43_display.md rules R182 and R185). -/

namespace Sys2Proof.Machine

theorem flagByte_eq_one_iff (b : Bool) : flagByte b = 1#8 ↔ b = true := by cases b <;> decide

theorem flagByte_eq_zero_iff (b : Bool) : flagByte b = 0#8 ↔ b = false := by cases b <;> decide

theorem drawFrom_VF (x y n : Nibble) (s : State) :
    (drawFrom Config.spriteEdge x y n s).reg 0xF#4 = flagByte (drawing x y n s).collided := by
  rw [drawFrom_eq, State.reg_setVF, if_pos rfl]

theorem drawFrom_VF_eq_zero_iff (x y n : Nibble) (s : State) :
    (drawFrom Config.spriteEdge x y n s).reg 0xF#4 = 0#8 ↔
      ∀ Y X, DrawCovers x y n s Y X → Frame.pixel s.fb Y X = false := by
  rw [drawFrom_VF, flagByte_eq_zero_iff, ← Bool.not_eq_true, drawing_collided_iff]
  simp only [not_exists, not_and, Bool.not_eq_true]

theorem Covers.of_bytes_eq {edge : SpriteEdge} {ox oy n : Nat} {b c : Nat → Byte} {Y X : Nat}
    (hbc : ∀ r, r < n → b r = c r) (h : Covers edge ox oy n b Y X) : Covers edge ox oy n c Y X := by
  obtain ⟨r, k, hr, hk, hbit, hland⟩ := h
  exact ⟨r, k, hr, hk, hbc r hr ▸ hbit, hland⟩

/-- The pixels that a draw covers depend on its wrapped origin and its bytes alone. -/
theorem drawCovers_congr {x y x' y' n : Nibble} {s u : State}
    (hx : (u.reg x').toNat % 64 = (s.reg x).toNat % 64) (hy : (u.reg y').toNat % 32 = (s.reg y).toNat % 32)
    (hbytes : ∀ r, r < n.toNat → u.mem.read (u.I.toNat + r) = s.mem.read (s.I.toNat + r)) (Y X : Nat) :
    DrawCovers x' y' n u Y X ↔ DrawCovers x y n s Y X := by
  simp only [DrawCovers, Config.dispW, Config.dispH, hx, hy]
  exact and_congr_right fun _ => and_congr_right fun _ =>
    ⟨Covers.of_bytes_eq hbytes, Covers.of_bytes_eq fun r hr => (hbytes r hr).symm⟩

theorem exists_bit_of_ne_zero {b : Byte} (h : b ≠ 0#8) : ∃ k, k < 8 ∧ b.getLsbD (7 - k) = true := by
  by_contra hnone
  simp only [not_exists, not_and, Bool.not_eq_true] at hnone
  refine h (BitVec.eq_of_getLsbD_eq fun i hi => ?_)
  have hbit := hnone (7 - i) (by omega)
  rw [Nat.sub_sub_self (Nat.le_of_lt_succ hi)] at hbit
  exact hbit.trans BitVec.getLsbD_zero.symm

/-- Under wrap every bit of a sprite lands on the surface. -/
theorem exists_drawCovers_of_wrap {x y n : Nibble} {s : State} (hedge : Config.spriteEdge = .wrap) {r : Nat}
    (hr : r < n.toNat) (hbyte : s.mem.read (s.I.toNat + r) ≠ 0#8) : ∃ Y X, DrawCovers x y n s Y X := by
  obtain ⟨k, hk, hbit⟩ := exists_bit_of_ne_zero hbyte
  refine ⟨((s.reg y).toNat % Config.dispH + r) % Config.dispH, ((s.reg x).toNat % Config.dispW + k) % Config.dispW,
    Nat.mod_lt _ (by decide), Nat.mod_lt _ (by decide), r, k, hr, hk, hbit, ?_⟩
  rw [hedge]
  exact ⟨rfl, rfl⟩

section
variable {x y x' y' n : Nibble} {s u : State} (hfb : u.fb = (drawing x y n s).fb)
  (hcovers : ∀ Y X, DrawCovers x' y' n u Y X ↔ DrawCovers x y n s Y X)
include hfb hcovers

/-- Flipping the covered pixels twice leaves the surface as it was. -/
theorem drawing_twice_fb : (drawing x' y' n u).fb = s.fb := by
  refine Frame.ext_pixel fun Y X _ _ => ?_
  by_cases hc : DrawCovers x y n s Y X
  · rw [pixel_drawing_of_covered ((hcovers Y X).mpr hc), hfb, pixel_drawing_of_covered hc, Bool.not_not]
  · rw [pixel_drawing_of_not_covered (mt (hcovers Y X).mp hc), hfb, pixel_drawing_of_not_covered hc]

/-- The second draw collides where the first one set a pixel. -/
theorem drawing_twice_collided_iff : (drawing x' y' n u).collided = true ↔
    ∃ Y X, DrawCovers x y n s Y X ∧ Frame.pixel s.fb Y X = false := by
  rw [drawing_collided_iff]
  refine exists_congr fun Y => exists_congr fun X => ?_
  rw [hcovers, hfb]
  refine and_congr_right fun hc => ?_
  rw [pixel_drawing_of_covered hc, Bool.not_eq_true']

end

/-- Settles O47: the second draw covers the same pixels, so it flips each of them back, and it collides where the first
one set a pixel. -/
theorem drawTwiceCancels : Obligations.DrawTwiceCancels := by
  intro x y x' y' n s t u hn hs hu hfirst hfb hx hy hbytes
  obtain rfl : t = drawFrom Config.spriteEdge x y n s :=
    Host.Outcome.next.inj (hfirst.symm.trans (exec_drw_of_inside x y hn hs))
  have hcovers := drawCovers_congr hx hy hbytes
  have hcollided := drawing_twice_collided_iff hfb hcovers
  have hVF : (drawFrom Config.spriteEdge x' y' n u).reg 0xF#4 = 1#8 ↔
      ∃ Y X, DrawCovers x y n s Y X ∧ Frame.pixel s.fb Y X = false := by
    rw [drawFrom_VF, flagByte_eq_one_iff, hcollided]
  have hclean (h0 : (drawFrom Config.spriteEdge x y n s).reg 0xF#4 = 0#8) :
      (drawFrom Config.spriteEdge x' y' n u).reg 0xF#4 = 1#8 ↔ ∃ Y X, DrawCovers x y n s Y X := by
    have hunset := (drawFrom_VF_eq_zero_iff x y n s).mp h0
    rw [hVF]
    exact exists_congr fun Y => exists_congr fun X => and_iff_left_of_imp (hunset Y X)
  refine ⟨⟨_, exec_drw_of_inside x' y' hn hu, drawing_twice_fb hfb hcovers, ?flag, hclean, ?wrap⟩, ?unset⟩
  case flag =>
    rw [drawFrom_eq]
    exact reg_setVF_cases hcollided
  case wrap =>
    rintro h0 hedge ⟨r, hr, hbyte⟩
    exact (hclean h0).mpr (exists_drawCovers_of_wrap hedge hr hbyte)
  case unset =>
    exact fun hunset => (drawFrom_VF_eq_zero_iff x y n s).mpr fun Y X _ => hunset Y X

end Sys2Proof.Machine
end

section
/-! PROOFS. Ticks, load, the reset state of the model, and what each host operation reaches (60_exceptions.md rules
R230 to R235, 70_reset_and_hazards.md rules R260 to R262). -/

namespace Sys2Proof.Machine

/-! ### Ticks -/

/-- Settles O53: one tick is one countdown of each timer, and n + 1 ticks are a tick and then n. -/
theorem ticksReachZeroAndStay : Obligations.TicksReachZeroAndStay := by
  intro n
  induction n with
  | zero => exact fun _ => ⟨rfl, rfl⟩
  | succ n ih =>
    intro s
    obtain ⟨hDT, hST⟩ := ih s.tick
    have h1 : s.tick.DT.toNat = s.DT.toNat - 1 := countDown_toNat s.DT
    have h2 : s.tick.ST.toNat = s.ST.toNat - 1 := countDown_toNat s.ST
    constructor
    · exact hDT.trans (by omega)
    · exact hST.trans (by omega)

/-! ### load -/

/-- load changes memory at most, admitted or not. -/
theorem hostOp_load_cases (s : State) (bytes : List Byte) :
    ∃ mem, (hostOp (.load bytes) s).1 = s.setMem mem := by
  by_cases h : s.result = none ∧ bytes.length ≤ 3584
  · exact ⟨_, congrArg Prod.fst (hostOp_load_of_admitted h)⟩
  · exact ⟨s.mem, congrArg Prod.fst (hostOp_load_of_not_admitted h)⟩

/-- A byte of a loaded block is read back at its place. -/
theorem read_loaded (m : Memory) {bytes : List Byte} (hlen : bytes.length ≤ 3584) {i : Nat} (hi : i < bytes.length) :
    some ((m.writeBlock Config.loadBase bytes).read (0x200 + i)) = bytes[i]? := by
  have hfit : Config.loadBase + bytes.length ≤ Config.memSize := Nat.add_le_add_left hlen _
  rw [Memory.read_writeBlock_add m hfit hi, List.getD_eq_getElem _ _ hi, List.getElem?_eq_getElem hi]

theorem hostStep_result_ne_none {s : State} (h : s.Inv) : (hostStep s).1.result ≠ none := by
  cases hf : s.fault with
  | some r =>
    obtain ⟨-, -, hr⟩ := h.latched r hf
    simp [hostStep_of_latched hf, hr]
  | none =>
    obtain ⟨t, r, -, hr, hstep⟩ := runningMachineAlwaysSteps s h hf
    have hhost : hostStep s = (t, .stepped r) := hstep
    simp [hhost, hr]

theorem hostOp_keeps_result {op : HostOp} (hstep : op ≠ .step) (hreset : ∀ l, op ≠ .reset l) (s : State) :
    (hostOp op s).1.result = s.result := by
  cases op with
  | reset l => exact absurd rfl (hreset l)
  | step => exact absurd rfl hstep
  | load bytes =>
    obtain ⟨mem, hmem⟩ := hostOp_load_cases s bytes
    rw [hmem, State.setMem_result]
  | setKey k pressed =>
    obtain ⟨key, hkey⟩ := hostOp_setKey_cases s k pressed
    rw [hkey]
  | tick | inspect | soundValue => rfl

/-- Settles O55: the split is the one that `load` makes; under the invariant a latched machine has its fault as the
result, and every other step records one. -/
theorem loadWritesAtTheLoadBase : Obligations.LoadWritesAtTheLoadBase := by
  intro s bytes
  refine ⟨fun hresult hlen => ?admitted, hostOp_load_of_not_admitted, fun _ => rfl, hostStep_result_ne_none,
    fun _ hstep hreset => hostOp_keeps_result hstep hreset s⟩
  case admitted =>
    exact ⟨_, hostOp_load_of_admitted ⟨hresult, hlen⟩, fun _ => read_loaded s.mem hlen,
      Memory.read_writeBlock_outside bytes s.mem _, rfl⟩

/-! ### The state after reset -/

/-- Above the font nothing is listed, and an unlisted byte reads as 0. -/
theorem reset_read_of_loadBase_le {a : Nat} (ha : 0x200 ≤ a) : State.reset.mem.read a = 0#8 := by
  have hbase := fontBase_le
  have hout : ¬inFont a = true := mt (inFont_iff a).mp (by omega)
  exact if_neg hout

/-- Settles O57: the font bytes and the zeros of a reset with the empty launch memory. -/
theorem resetStateOfTheModel : Obligations.ResetStateOfTheModel := by
  have hglyph {i : Nat} (hi : i < 80) : some (State.reset.mem.read (fontBase + i)) = fontData[i]? :=
    Memory.read_preloadFont_window [] hi
  exact ⟨reset_eq_resetWith_zero, rfl, Option.some.inj (hglyph (i := 0) (by decide)),
    Option.some.inj (hglyph (i := 1) (by decide)), fun _ => reset_read_of_loadBase_le⟩

/-! ### The targets of the host -/

/-- Settles O58: the load and the key write change one field, whether they are admitted or not; the rest is by
definition. -/
theorem hostReachesOnlyItsTargets : Obligations.HostReachesOnlyItsTargets := by
  intro op s t r h
  obtain ⟨rfl, rfl⟩ := Prod.mk.inj h
  cases op with
  | reset l => exact .inr (.inl ⟨l, rfl⟩)
  | load bytes =>
    obtain ⟨mem, hmem⟩ := hostOp_load_cases s bytes
    exact .inr (.inr (.inl ⟨⟨bytes, rfl⟩, hmem ▸ rfl⟩))
  | step => exact .inl rfl
  | tick => exact .inr (.inr (.inr (.inl ⟨rfl, rfl⟩)))
  | setKey k pressed =>
    obtain ⟨key, hkey⟩ := hostOp_setKey_cases s k pressed
    exact .inr (.inr (.inr (.inr (.inl ⟨⟨k, pressed, rfl⟩, hkey ▸ rfl⟩))))
  | inspect => exact .inr (.inr (.inr (.inr (.inr (.inl ⟨rfl, rfl, rfl⟩)))))
  | soundValue => exact .inr (.inr (.inr (.inr (.inr (.inr ⟨rfl, rfl, rfl⟩)))))

end Sys2Proof.Machine
end
